-- ==== Sys2Proof/Word.lean ====
section
/-! DEFINITION. The word types of the PS/2 controller engine: every data path is 8 bits wide (spec 00_scope R9). -/

namespace Sys2Proof

/-- A byte: bit 7 is the most significant bit, bit 0 the least (R12). -/
abbrev Byte := BitVec 8

/-- A nibble: the value of the one-shot status override (R29). -/
abbrev Nibble := BitVec 4

end Sys2Proof
end

