-- ==== Sys2Proof/Syntax.lean ====
section
/-! DEFINITION. The instructions: the four host port operations (R80) and the command bytes (R81 to R84, R93), one
constructor per mnemonic of spec/opcode_table.json. The engine operations `TICK(n)` and `RESET` have no encoding and no row
(R93); they are operations of the environment (`Machine.Op`). -/

namespace Sys2Proof

/-- R93: the two spaces of spec/opcode_table.json. -/
inductive Space where
  | hostport
  | command
deriving DecidableEq, Repr

/-- R10: an instruction. `rdram` and `wrram` keep the ignored bit 5 (`x`, R82), `pulse` keeps the bits `m` without effect
(R83), and `undef` keeps its opcode (R94), so that no bit of an encoding is lost. -/
inductive Instr where
  /-- Read of port 0x60 (R210). -/
  | rddata
  /-- Write of port 0x60 (R211). -/
  | wrdata (v : Byte)
  /-- Read of port 0x64 (R212). -/
  | rdstat
  /-- Write of port 0x64 (R213). -/
  | wrcmd (v : Byte)
  /-- 0x00 to 0x3F: indirect RAM read (R121). -/
  | rdram (x : Bool) (n : BitVec 5)
  /-- 0x40 to 0x7F: arm an indirect RAM write (R122). -/
  | wrram (x : Bool) (n : BitVec 5)
  /-- 0xA4: password test (R130). -/
  | pwtest
  /-- 0xA5: load security (R131). -/
  | pwload
  /-- 0xA6: enable security (R132). -/
  | pwenable
  /-- 0xA7: disable channel 1 (R140). -/
  | dis1
  /-- 0xA8: enable channel 1 (R141). -/
  | en1
  /-- 0xA9: interface test of channel 1 (R142). -/
  | iftest1
  /-- 0xAA: controller self-test (R143). -/
  | selftest
  /-- 0xAB: interface test of channel 0 (R144). -/
  | iftest0
  /-- 0xAC: diagnostic dump (R145). -/
  | dump
  /-- 0xAD: disable channel 0 (R146). -/
  | dis0
  /-- 0xAE: enable channel 0 (R147). -/
  | en0
  /-- 0xC0: read the input port (R150). -/
  | rdinp
  /-- 0xC1: show the low nibble of the input port in the status byte (R151). -/
  | pollinlo
  /-- 0xC2: show the high nibble of the input port in the status byte (R152). -/
  | pollinhi
  /-- 0xD0: read the output port (R153). -/
  | rdoutp
  /-- 0xD1: arm a write of the output port (R154). -/
  | wroutp
  /-- 0xD2: arm the simulation of channel-0 output (R155). -/
  | sim0
  /-- 0xD3: arm the simulation of channel-1 output (R156). -/
  | sim1
  /-- 0xD4: arm a forward to channel 1 (R157). -/
  | wraux
  /-- 0xDD: enable the A20 line (R158). -/
  | a20on
  /-- 0xDF: disable the A20 line (R159). -/
  | a20off
  /-- 0xF0 to 0xFF: pulse output lines; `r = false` requests a system reset (R160). -/
  | pulse (m : BitVec 3) (r : Bool)
  /-- One of the 91 unassigned opcodes (R161). -/
  | undef (op : Byte)
deriving DecidableEq, Repr

/-- R93: the space an instruction's row stands in. -/
def Instr.space : Instr → Space
  | .rddata | .wrdata _ | .rdstat | .wrcmd _ => .hostport
  | .rdram _ _ | .wrram _ _ | .pwtest | .pwload | .pwenable | .dis1 | .en1 | .iftest1 | .selftest | .iftest0 | .dump
  | .dis0 | .en0 | .rdinp | .pollinlo | .pollinhi | .rdoutp | .wroutp | .sim0 | .sim1 | .wraux | .a20on | .a20off
  | .pulse _ _ | .undef _ => .command

end Sys2Proof
end

