-- ==== Sys2Proof/WellFormed.lean ====
section
/-! DEFINITION. Which terms of `Instr` stand for an encoding. The operand types carry every width already; the one check
left is that an `undef` names one of the 91 opcodes of R94. -/

namespace Sys2Proof

/-- R94: the 91 unassigned opcodes 0x80-0xA3, 0xAF-0xBF, 0xC3-0xCF, 0xD5-0xDC, 0xDE and 0xE0-0xEF. -/
def unassigned (op : Byte) : Bool :=
  let n := op.toNat
  (0x80 ≤ n && n ≤ 0xA3) || (0xAF ≤ n && n ≤ 0xBF) || (0xC3 ≤ n && n ≤ 0xCF) || (0xD5 ≤ n && n ≤ 0xDC) || n == 0xDE
    || (0xE0 ≤ n && n ≤ 0xEF)

/-- An instruction is well formed when some row of the opcode table encodes it. -/
def Instr.wf : Instr → Bool
  | .undef op => unassigned op
  | .rddata | .wrdata _ | .rdstat | .wrcmd _ | .rdram _ _ | .wrram _ _ | .pwtest | .pwload | .pwenable | .dis1 | .en1
  | .iftest1 | .selftest | .iftest0 | .dump | .dis0 | .en0 | .rdinp | .pollinlo | .pollinhi | .rdoutp | .wroutp | .sim0
  | .sim1 | .wraux | .a20on | .a20off | .pulse _ _ => true

end Sys2Proof
end

