-- ==== Sys2Proof/Decode.lean ====
section
/-! DEFINITION. The decoder and the encoder. A host port operation is the pattern `sel ++ dir` (R80), laid out as one byte
whose bits 7:2 are 0, followed by the written byte for the two writes; a command is one byte (R81). -/

namespace Sys2Proof

/-- Why bytes are no instruction. -/
inductive DecodeError where
  /-- There is no byte to decode. -/
  | noBytes
  /-- The first byte of a port operation has a bit above the two of `sel ++ dir` set (R80). -/
  | notAPortPattern (b : Byte)
  /-- A port write without the byte it writes (R80). -/
  | missingWrittenByte
deriving DecidableEq, Repr

/-- R80: the port operation of the pattern `sel ++ dir` (bit 1 is `sel`, bit 0 is `dir`), with the byte on the data lines. -/
def decodePort (p : BitVec 2) (din : Byte) : Instr :=
  match p.getLsbD 1, p.getLsbD 0 with
  | false, false => .rddata
  | false, true  => .wrdata din
  | true,  false => .rdstat
  | true,  true  => .wrcmd din

/-- R84, R93: the assigned opcodes of format `FIXED`. -/
def fixedRows : List (Byte × Instr) :=
  [(0xA4#8, .pwtest), (0xA5#8, .pwload), (0xA6#8, .pwenable), (0xA7#8, .dis1), (0xA8#8, .en1), (0xA9#8, .iftest1),
   (0xAA#8, .selftest), (0xAB#8, .iftest0), (0xAC#8, .dump), (0xAD#8, .dis0), (0xAE#8, .en0), (0xC0#8, .rdinp),
   (0xC1#8, .pollinlo), (0xC2#8, .pollinhi), (0xD0#8, .rdoutp), (0xD1#8, .wroutp), (0xD2#8, .sim0), (0xD3#8, .sim1),
   (0xD4#8, .wraux), (0xDD#8, .a20on), (0xDF#8, .a20off)]

/-- R84, R94: a byte of format `FIXED`; one that no row assigns is `UNDEF`. -/
def decodeFixed (v : Byte) : Instr :=
  match fixedRows.lookup v with
  | some i => i
  | none   => .undef v

/-- R81 to R84, R93: the command a byte stands for. Every byte stands for one; none is rejected (R81). -/
def decodeCommand (v : Byte) : Instr :=
  if v.getLsbD 7 then
    if v.extractLsb' 4 4 = 0xF#4 then .pulse (v.extractLsb' 1 3) (v.getLsbD 0) else decodeFixed v
  else if v.getLsbD 6 then .wrram (v.getLsbD 5) (v.extractLsb' 0 5)
  else .rdram (v.getLsbD 5) (v.extractLsb' 0 5)

/-- The first instruction of a list of bytes in a space of the opcode table, and the bytes after it. -/
def decode : Space → List Byte → Except DecodeError (Instr × List Byte)
  | _, [] => .error .noBytes
  | .command, b :: rest => .ok (decodeCommand b, rest)
  | .hostport, b :: rest =>
    if b.extractLsb' 2 6 ≠ 0#6 then .error (.notAPortPattern b)
    else if b.getLsbD 0 then
      match rest with
      | [] => .error .missingWrittenByte
      | v :: rest' => .ok (decodePort (b.extractLsb' 0 2) v, rest')
    else .ok (decodePort (b.extractLsb' 0 2) 0x00#8, rest)

/-- R82: a byte of format `RAM`, from the bits 7, 6 (`w`), 5 (`x`) and 4:0 (`n`). -/
def encodeRam (w x : Bool) (n : BitVec 5) : Byte :=
  (0#1 ++ BitVec.ofBool w ++ BitVec.ofBool x ++ n : BitVec (1 + 1 + 1 + 5))

/-- R83: a byte of format `PULSE`, from the bits 3:1 (`m`) and 0 (`r`). -/
def encodePulse (m : BitVec 3) (r : Bool) : Byte :=
  (0xF#4 ++ m ++ BitVec.ofBool r : BitVec (4 + 3 + 1))

/-- R80 to R84, R93: the bytes of an instruction. -/
def encode : Instr → List Byte
  | .rddata      => [0x00#8]
  | .wrdata v    => [0x01#8, v]
  | .rdstat      => [0x02#8]
  | .wrcmd v     => [0x03#8, v]
  | .rdram x n   => [encodeRam false x n]
  | .wrram x n   => [encodeRam true x n]
  | .pwtest      => [0xA4#8]
  | .pwload      => [0xA5#8]
  | .pwenable    => [0xA6#8]
  | .dis1        => [0xA7#8]
  | .en1         => [0xA8#8]
  | .iftest1     => [0xA9#8]
  | .selftest    => [0xAA#8]
  | .iftest0     => [0xAB#8]
  | .dump        => [0xAC#8]
  | .dis0        => [0xAD#8]
  | .en0         => [0xAE#8]
  | .rdinp       => [0xC0#8]
  | .pollinlo    => [0xC1#8]
  | .pollinhi    => [0xC2#8]
  | .rdoutp      => [0xD0#8]
  | .wroutp      => [0xD1#8]
  | .sim0        => [0xD2#8]
  | .sim1        => [0xD3#8]
  | .wraux       => [0xD4#8]
  | .a20on       => [0xDD#8]
  | .a20off      => [0xDF#8]
  | .pulse m r   => [encodePulse m r]
  | .undef op    => [op]

/-- R93: the `mask` and `match` of an instruction's row of spec/opcode_table.json. -/
def rowOf : Instr → Byte × Byte
  | .rddata      => (0x03#8, 0x00#8)
  | .wrdata _    => (0x03#8, 0x01#8)
  | .rdstat      => (0x03#8, 0x02#8)
  | .wrcmd _     => (0x03#8, 0x03#8)
  | .rdram _ _   => (0xC0#8, 0x00#8)
  | .wrram _ _   => (0xC0#8, 0x40#8)
  | .pwtest      => (0xFF#8, 0xA4#8)
  | .pwload      => (0xFF#8, 0xA5#8)
  | .pwenable    => (0xFF#8, 0xA6#8)
  | .dis1        => (0xFF#8, 0xA7#8)
  | .en1         => (0xFF#8, 0xA8#8)
  | .iftest1     => (0xFF#8, 0xA9#8)
  | .selftest    => (0xFF#8, 0xAA#8)
  | .iftest0     => (0xFF#8, 0xAB#8)
  | .dump        => (0xFF#8, 0xAC#8)
  | .dis0        => (0xFF#8, 0xAD#8)
  | .en0         => (0xFF#8, 0xAE#8)
  | .rdinp       => (0xFF#8, 0xC0#8)
  | .pollinlo    => (0xFF#8, 0xC1#8)
  | .pollinhi    => (0xFF#8, 0xC2#8)
  | .rdoutp      => (0xFF#8, 0xD0#8)
  | .wroutp      => (0xFF#8, 0xD1#8)
  | .sim0        => (0xFF#8, 0xD2#8)
  | .sim1        => (0xFF#8, 0xD3#8)
  | .wraux       => (0xFF#8, 0xD4#8)
  | .a20on       => (0xFF#8, 0xDD#8)
  | .a20off      => (0xFF#8, 0xDF#8)
  | .pulse _ _   => (0xF0#8, 0xF0#8)
  | .undef op    => (0xFF#8, op)

/-- The bytes of a table word: the first word is the lowest byte, as spec/opcode_table.json numbers the bits. -/
def tableBytes (w : Nat) : List Byte := [BitVec.ofNat 8 w, BitVec.ofNat 8 (w / 256)]

/-- The space a table word is read in (DESIGN CHOICE: log entry 6). A word does not say its space: a row of fewer than 8
bits is a port operation; of the words of 8 bits, 0 to 3 stand in both spaces and are read as the port operations, the rows
the table lists first, and every other word is a command. -/
def tableSpace (nbits w : Nat) : Space := if nbits < 8 ∨ w < 4 then .hostport else .command

/-- The instruction the decoder reads from a word numbered as spec/opcode_table.json numbers it. -/
def decodeTableWord (nbits w : Nat) : Option Instr :=
  match decode (tableSpace nbits w) (tableBytes w) with
  | .ok (i, _) => some i
  | .error _   => none

end Sys2Proof
end

