-- ==== Sys2Proof/Config.lean ====
section
/-! DEFINITION. The constants the spec fixes (R6) and the record of the parameters a model takes (R7, R8), with the one
configuration that `State.reset` uses. A `Config` is a field of the machine's state that no operation changes, so that a
statement about every state is a statement about every configuration. -/

namespace Sys2Proof

/-- R6: the number of bytes of the configuration RAM. -/
abbrev ramSize : Nat := 32

/-- R6: bit-clocks charged for one byte produced into the output buffer. -/
abbrev costRead : Nat := 11

/-- R6: bit-clocks charged for one latched host write carried out. -/
abbrev costWrite : Nat := 12

/-- R6: the first self-test response byte. -/
abbrev ackByte : Byte := 0xFA#8

/-- R6: the second self-test response byte. -/
abbrev selftestPass : Byte := 0x55#8

/-- R6: the pass byte of the interface tests. -/
abbrev iftestPass : Byte := 0x00#8

/-- R6: the translation escape byte. -/
abbrev xlatEscByte : Byte := 0xF0#8

/-- R6: the bit the escape sets on the following translated byte. -/
abbrev xlatEscBit : Byte := 0x80#8

/-- R6: the RAM index of the base byte for indirect RAM access. -/
abbrev baseIdx : Nat := 0x0B

/-- R16: the two device-facing ports, channel 0 (primary) and channel 1 (secondary). -/
inductive Channel where
  | c0
  | c1
deriving DecidableEq, Repr

/-- R101: which handlers of a channel are wired. -/
structure Wiring where
  hasRead     : Bool
  hasWrite    : Bool
  hasPeek     : Bool
  hasNotifier : Bool
deriving DecidableEq, Repr

/-- R105: the two values of `POLL_ORDER`, `[0, 1]` and `[1, 0]`. -/
inductive PollOrder where
  | zeroFirst
  | oneFirst
deriving DecidableEq, Repr

/-- R105: the channels in the order in which the Filler examines them. -/
def PollOrder.channels : PollOrder → List Channel
  | .zeroFirst => [.c0, .c1]
  | .oneFirst  => [.c1, .c0]

/-- R9, R134: the security-command variant a configuration asks for. `compaq` has no specified behaviour and a step refuses
a configuration that selects it. -/
inductive SecurityVariant where
  | standard
  | compaq
deriving DecidableEq, Repr

/-- R7, R8: the parameters. The defaults are those of R7; the five without a default are left open by R8. -/
structure Config where
  /-- R8, R170: master clock cycles per bit-clock; the spec asks for at least 1 (`Config.ok`). -/
  clkPerBit : Nat
  /-- R8, R241: the reset value of RAM byte 0. -/
  cfg0Reset : Byte
  /-- R8, R36: the reset value of the virtual input port. -/
  inportReset : Byte
  /-- R8, R194: the translation table, 256 bytes whose contents the source does not give. -/
  xlat : Vector Byte 256
  /-- R8, R101: the wiring of channel 0. -/
  dev0 : Wiring
  /-- R8, R101: the wiring of channel 1. -/
  dev1 : Wiring
  /-- R7, R110: the capacity of the Output Queue. -/
  queueCap : Nat := 64
  /-- R7, R105. -/
  pollOrder : PollOrder := .zeroFirst
  /-- R7, R183: whether the Filler skips the physical poll of a disabled channel. -/
  gatePollOnDisable : Bool := false
  /-- R7, R150: the vendor variant of command 0xC0. -/
  variantC0Rotate : Bool := false
  /-- R7, R58: the reset value of the virtual output port. -/
  outportReset : Byte := 0x00#8
  /-- R7, R130: the answer of `PWTEST` when key and sum agree. -/
  secMatch : Byte := 0xFA#8
  /-- R7, R130: the answer of `PWTEST` when they differ. -/
  secNomatch : Byte := 0xF1#8
  /-- R7, R144: the interface-test failure byte of channel 0. -/
  iftestFail0 : Byte := 0x01#8
  /-- R7, R142: the interface-test failure byte of channel 1. -/
  iftestFail1 : Byte := 0x02#8
  /-- R9, R134: the security variant. -/
  security : SecurityVariant := .standard
deriving DecidableEq, Repr

/-- R101: the wiring of channel `c`. -/
def Config.wiring (cfg : Config) : Channel → Wiring
  | .c0 => cfg.dev0
  | .c1 => cfg.dev1

/-- R142, R144: the interface-test failure byte of channel `c`. -/
def Config.iftestFail (cfg : Config) : Channel → Byte
  | .c0 => cfg.iftestFail0
  | .c1 => cfg.iftestFail1

/-- R8: what the spec asks of a configuration: a bit-clock lasts at least one master cycle. -/
abbrev Config.ok (cfg : Config) : Prop := 1 ≤ cfg.clkPerBit

/-- R8, R194: the translation table of the machine that `State.reset` describes. It has no body: the spec leaves all its
256 entries open (log entry 2). -/
opaque Config.xlatTable : Vector Byte 256

/-- All four handlers wired. -/
def Wiring.full : Wiring := { hasRead := true, hasWrite := true, hasPeek := true, hasNotifier := true }

/-- The configuration of the machine that `State.reset` describes: the defaults of R7 and, for the parameters R8 leaves
open, the test configuration at the end of spec 92_eei_decisions (DESIGN CHOICE, unsafe: log entry 1). No statement about
the machine rests on these values. -/
def Config.board : Config :=
  { clkPerBit := 1, cfg0Reset := 0x23#8, inportReset := 0xB1#8, xlat := Config.xlatTable
    dev0 := Wiring.full, dev1 := Wiring.full }

end Sys2Proof
end

