-- ==== Sys2Proof/Machine/Event.lean ====
section
/-! DEFINITION. The output events (R104), the notifier codes (R89), and the events of a `RESET` (R240). -/

namespace Sys2Proof.Machine

/-- R104, R223: the two interrupt request lines. -/
inductive IrqLine where
  | irq1
  | irq12
deriving DecidableEq, Repr

/-- R35, R87: the bit of `outport` that is a line's level. -/
def IrqLine.outBit : IrqLine → Nat
  | .irq1  => 4
  | .irq12 => 5

/-- R223: the line of the bytes a channel owns. -/
def lineOf : Channel → IrqLine
  | .c0 => .irq1
  | .c1 => .irq12

/-- R89: the code passed to a channel's notifier. -/
inductive NotifyCode where
  /-- `N_ENABLE_IRQ`: "reset, fire interrupt". -/
  | enableIrq
  /-- `N_DISABLE`: "reset, then fire interrupt on completion". -/
  | disable
  /-- `N_ENABLE_NOIRQ`: "reset, no interrupt". -/
  | enableNoIrq
deriving DecidableEq, Repr

/-- R89: the two bits of a notifier code on the `ncode` pins (R107); 0 is not used. -/
def NotifyCode.bits : NotifyCode → BitVec 2
  | .enableIrq   => 1#2
  | .disable     => 2#2
  | .enableNoIrq => 3#2

/-- R104: the complete set of output events. -/
inductive Event where
  /-- Byte `b` is delivered to device `c`. -/
  | devSend (c : Channel) (b : Byte)
  /-- Channel `c`'s enable state changes. -/
  | devNotify (c : Channel) (k : NotifyCode)
  /-- The line is driven high. -/
  | irqRaise (l : IrqLine)
  /-- The line is driven low and a pending request withdrawn (R229). -/
  | irqLower (l : IrqLine)
  /-- The A20 line is driven to `level`; `true` is A20 enabled. -/
  | a20Set (level : Bool)
  /-- A system reset is requested. -/
  | sysResetReq
deriving DecidableEq, Repr

/-- R32: the bit of `ram[0]` that disables channel `c`. -/
def disBit : Channel → Nat
  | .c0 => 4
  | .c1 => 5

/-- R240: the notification of channel `c` when a `RESET` finds the configuration byte `old0`. -/
def resetNotify (cfg : Config) (old0 : Byte) (c : Channel) : List Event :=
  if old0.getLsbD (disBit c) ≠ cfg.cfg0Reset.getLsbD (disBit c) ∧ (cfg.wiring c).hasNotifier then
    [.devNotify c (if cfg.cfg0Reset.getLsbD (disBit c) then .disable else .enableIrq)]
  else []

/-- R240: what a `RESET` reports of a line: its level in `OUTPORT_RESET`. -/
def resetLine (cfg : Config) (l : IrqLine) : Event :=
  if cfg.outportReset.getLsbD l.outBit then .irqRaise l else .irqLower l

/-- R240: the events of a `RESET` that finds the configuration byte `old0`, in order. -/
def resetEvents (cfg : Config) (old0 : Byte) : List Event :=
  resetNotify cfg old0 .c0 ++ resetNotify cfg old0 .c1
    ++ [resetLine cfg .irq1, resetLine cfg .irq12, .a20Set (cfg.outportReset.getLsbD 1)]

end Sys2Proof.Machine
end

