-- ==== Sys2Proof/Machine/Memory.lean ====
section
/-! DEFINITION. The configuration RAM (R31, R62): a list of (index, byte) cells in one canonical form. The block has no other
memory (R65, R66). -/

namespace Sys2Proof.Machine

/-- The cells of the configuration RAM. -/
abbrev Memory := List Host.Cell

/-- R58: what a RAM index that no cell lists reads as: its content after `RESET`, `CFG0_RESET` at index 0 and 0x00 at every
other index. -/
def ramUnlisted (cfg0 : Byte) (a : Nat) : Byte := if a = 0 then cfg0 else 0x00#8

/-- R13 `ram[a]`, also written `MemRead(a, 1)`. -/
def Memory.read (cfg0 : Byte) : Memory → Nat → Byte
  | [], a => ramUnlisted cfg0 a
  | (k, v) :: m, a => if k = a then v else Memory.read cfg0 m a

/-- R13 `ram[a] <- v`, also written `MemWrite(a, 1, v)`, kept canonical: the value an unlisted index reads as is not listed. -/
def Memory.write (cfg0 : Byte) : Memory → Nat → Byte → Memory
  | [], a, v => if v = ramUnlisted cfg0 a then [] else [(a, v)]
  | (k, w) :: m, a, v =>
    if a < k then
      if v = ramUnlisted cfg0 a then (k, w) :: m else (a, v) :: (k, w) :: m
    else if a = k then
      if v = ramUnlisted cfg0 a then m else (a, v) :: m
    else (k, w) :: Memory.write cfg0 m a v

/-- The cells stand at strictly rising indices from `lo` on, each below 32, and none lists what an unlisted index reads as. -/
def Memory.wfFrom (cfg0 : Byte) : Nat → Memory → Bool
  | _, [] => true
  | lo, (k, v) :: m => decide (lo ≤ k) && decide (k < ramSize) && decide (v ≠ ramUnlisted cfg0 k) && Memory.wfFrom cfg0 (k + 1) m

/-- The canonical form of the configuration RAM. -/
def Memory.wf (cfg0 : Byte) (m : Memory) : Bool := Memory.wfFrom cfg0 0 m

end Sys2Proof.Machine
end

