-- ==== Sys2Proof/Machine/State.lean ====
section
/-! DEFINITION. The machine's state (spec 10_state), the operations of the environment (R10, R11), the outcomes that are no
state, and the state after reset (R58). -/

namespace Sys2Proof.Machine

/-- R40: the kinds of the one latched host write. The reserved name `keyboardModeByte`, which no rule produces, is left out
(R181, log entry 9). -/
inductive PendingWrite where
  /-- `ch0`, `ch1`: forward `inbuf` to the channel. -/
  | ch (c : Channel)
  /-- `command`: execute `cmd`. -/
  | command
  /-- `sim0`, `sim1`: inject `inbuf` as if it arrived from the channel. -/
  | sim (c : Channel)
  /-- `outportwr`: write `inbuf` to `outport`. -/
  | outportwr
  /-- `ramwr(i)`: write `inbuf` to RAM index `i`, 0 to 286. -/
  | ramwr (i : Fin 287)
  /-- `security`: feed `inbuf` to the security accumulator. -/
  | security
deriving DecidableEq, Repr

/-- R10, R11: one operation of an agent. The agents' operations form one total order. -/
inductive Op where
  /-- The host's bus transaction: the pattern `sel ++ dir` and the byte on `din` (R61, R80). -/
  | port (pattern : BitVec 2) (din : Byte)
  /-- The clock's `TICK(n)` (R171). -/
  | tick (n : Nat)
  /-- The platform's `RESET` (R240). -/
  | reset
  /-- `DEVc <- b` (R98): device `c` makes one more byte available. -/
  | offer (c : Channel) (b : Byte)
  /-- Device `c` changes what it offers to the bytes `bs`, none or several (R11, R109). -/
  | setOffers (c : Channel) (bs : List Byte)
deriving DecidableEq, Repr

/-- The machine never stops with a fault: "The block has no synchronous exception, no fault, no trap and no error report of
any kind" (R220). The type has no constructor, so no step can answer one; that is what the spec says, and safe. -/
inductive Fault where
deriving DecidableEq, Repr

/-- Why a step is refused. -/
inductive Refusal where
  /-- Raised by `exec` for an instruction without a meaning; no arm raises it any more. Safe. -/
  | notModelled (mnemonic : String)
  /-- Raised by `step` for a configuration that selects the "Compaq" security variant, which no source describes and a model
  refuses (R9, R134, I9). Safe. -/
  | compaqSecurity
deriving DecidableEq, Repr

/-- The state of the block (spec 10_state), with the model's own fields last. -/
structure State where
  /-- R20: the output buffer. -/
  outbuf : Byte
  /-- R21: the input buffer. -/
  inbuf : Byte
  /-- R22: the last latched command byte. -/
  cmd : Byte
  /-- R25: output-full. -/
  obf : Bool
  /-- R26: input-full. -/
  ibf : Bool
  /-- R27: last-write-was-command. -/
  cmdflag : Bool
  /-- R28: the byte in `outbuf` came from channel 1. -/
  aux : Bool
  /-- R29: the one-shot override of status bits 7:4. -/
  stOverride : Option Nibble
  /-- R29: the transient mask of the output-full bit. -/
  hideObf : Bool
  /-- R31: the configuration RAM. -/
  ram : Memory
  /-- R35: the virtual output port. -/
  outport : Byte
  /-- R36: the virtual input port. -/
  inport : Byte
  /-- R40: the latched host write awaiting service, `none` when there is none. -/
  pw : Option PendingWrite
  /-- R41: the next data write goes to `outport`. -/
  armOutport : Bool
  /-- R41: the next data write is injected on channel 0. -/
  armSim0 : Bool
  /-- R41: the next data write is injected on channel 1. -/
  armSim1 : Bool
  /-- R41: the next data write is forwarded to channel 1. -/
  armAux : Bool
  /-- R42: a read of `outport` is pending. -/
  rdOutport : Bool
  /-- R42: a RAM read is pending. -/
  ramRdIdx : Option (Fin 32)
  /-- R42: a RAM write is armed. -/
  ramWrIdx : Option (Fin 287)
  /-- R43: the security accumulation mode is on. -/
  secMode : Bool
  /-- R43: the running checksum. -/
  secSum : Byte
  /-- R43: the stored key. -/
  secKey : Byte
  /-- R44: the one-shot escape prefix of the translation. -/
  xlatEsc : Bool
  /-- R45: the byte injected on channel 0, not delivered yet. -/
  inj0 : Option Byte
  /-- R45: the byte injected on channel 1, not delivered yet. -/
  inj1 : Option Byte
  /-- R46, R110: the Output Queue, oldest byte first. -/
  q : List Byte
  /-- R47: master cycles that do not yet make a bit-clock. -/
  acc : Nat
  /-- R47: bit-clocks owed. -/
  budget : Nat
  /-- R61, R107: the byte the last host read put on `dout`. -/
  dout : Byte
  /-- R49: the output trace, oldest event first. -/
  trace : List Event
  /-- R48, R98, R100: the bytes device 0 has available, next first; `avail[0]` is 1 when there is one. -/
  offers0 : List Byte
  /-- R48, R98, R100: the same for device 1. -/
  offers1 : List Byte
  /-- R11: the operations the environment issues from here on, next first. -/
  inputs : List Op
  /-- R7, R8, R48: the parameters, which no operation changes. -/
  cfg : Config
deriving DecidableEq, Repr

/-- R58: every state variable at its reset value, in the configuration `cfg`. The RAM lists nothing, so that it reads as
`CFG0_RESET` at index 0 and 0x00 elsewhere (`ramUnlisted`). The environment's fields and the trace are given. -/
def State.resetWith (cfg : Config) (dout : Byte) (trace : List Event) (offers0 offers1 : List Byte) (inputs : List Op) : State :=
  { outbuf := 0x00#8, inbuf := 0x00#8, cmd := 0x00#8
    obf := false, ibf := false, cmdflag := false, aux := false, stOverride := none, hideObf := false
    ram := [], outport := cfg.outportReset, inport := cfg.inportReset
    pw := none, armOutport := false, armSim0 := false, armSim1 := false, armAux := false
    rdOutport := false, ramRdIdx := none, ramWrIdx := none
    secMode := false, secSum := 0x00#8, secKey := 0x00#8, xlatEsc := false, inj0 := none, inj1 := none
    q := [], acc := 0, budget := 0
    dout := dout, trace := trace, offers0 := offers0, offers1 := offers1, inputs := inputs, cfg := cfg }

/-- R59, R240, R243: the state after the first `RESET` of a machine with the configuration `cfg`: the configuration byte
before it counts as 0x00, no device offers a byte, and the environment has issued nothing yet. -/
def State.powerUp (cfg : Config) : State := State.resetWith cfg 0x00#8 (resetEvents cfg 0x00#8) [] [] []

/-- The machine right after its first `RESET`, in the configuration `Config.board`. -/
def State.reset : State := State.powerUp Config.board

end Sys2Proof.Machine
end

