-- ==== Sys2Proof/Machine/Ops.lean ====
section
/-! DEFINITION. The shared operations: single bits, the RAM, the pins and the interrupt lines, output events, the notifier
rule (R103), the Output Queue (R110 to R113), the write services (R176 to R180) and `RESET` (R240). The block takes no
exception and returns from none (R220, R230): there is no such operation to model. -/

namespace Sys2Proof.Machine

/-- R12: `v` with bit `i` given the value `b`. -/
def setBit (v : Byte) (i : Nat) (b : Bool) : Byte :=
  if b then v ||| BitVec.twoPow 8 i else v &&& ~~~(BitVec.twoPow 8 i)

/-- R45: the injection latch of channel `c`. -/
def State.inj (s : State) : Channel → Option Byte
  | .c0 => s.inj0
  | .c1 => s.inj1

/-- R45: the injection latch of channel `c` is given the value `v`. -/
def State.setInj (s : State) (c : Channel) (v : Option Byte) : State :=
  match c with
  | .c0 => { s with inj0 := v }
  | .c1 => { s with inj1 := v }

/-- R100: the bytes device `c` has available. -/
def State.offers (s : State) : Channel → List Byte
  | .c0 => s.offers0
  | .c1 => s.offers1

/-- R100: device `c` has the bytes `bs` available from here on. -/
def State.setOffers (s : State) (c : Channel) (bs : List Byte) : State :=
  match c with
  | .c0 => { s with offers0 := bs }
  | .c1 => { s with offers1 := bs }

/-- R13: `emit E`. -/
def State.emit (s : State) (e : Event) : State := { s with trace := s.trace ++ [e] }

/-- R13: `ram[a]`. -/
def State.ramByte (s : State) (a : Nat) : Byte := Memory.read s.cfg.cfg0Reset s.ram a

/-- R13: `ram[a] <- v`. -/
def State.writeRam (s : State) (a : Nat) (v : Byte) : State := { s with ram := Memory.write s.cfg.cfg0Reset s.ram a v }

/-- R32: the disable flag of channel `c`, `ram[0][4 + c]`. -/
def State.disabled (s : State) (c : Channel) : Bool := (s.ramByte 0).getLsbD (disBit c)

/-- R32, R224: the interrupt enable of channel `c`, `ram[0][c]`. -/
def State.intEnabled (s : State) (c : Channel) : Bool :=
  match c with
  | .c0 => (s.ramByte 0).getLsbD 0
  | .c1 => (s.ramByte 0).getLsbD 1

/-- R32: the translation enable, `ram[0][6]`. -/
def State.xlate (s : State) : Bool := (s.ramByte 0).getLsbD 6

/-- R37: the level of an interrupt line. -/
def State.irq (s : State) (l : IrqLine) : Bool := s.outport.getLsbD l.outBit

/-- R37: the level of the A20 line. -/
def State.a20 (s : State) : Bool := s.outport.getLsbD 1

/-- R37: the level of the reset line. -/
def State.rstline (s : State) : Bool := s.outport.getLsbD 0

/-- R100: `avail[c]`, whether device `c` has a byte ready. -/
def State.avail (s : State) (c : Channel) : Bool := !(s.offers c).isEmpty

/-- R197, R210: lower a line, `outport[b] <- 0; emit IrqLower(l)`. -/
def lowerIrq (l : IrqLine) (s : State) : State :=
  State.emit { s with outport := setBit s.outport l.outBit false } (.irqLower l)

/-- R197: raise a line, `outport[b] <- 1; emit IrqRaise(l)`. -/
def raiseIrq (l : IrqLine) (s : State) : State :=
  State.emit { s with outport := setBit s.outport l.outBit true } (.irqRaise l)

/-- R102: whether all of read, write and peek are wired on channel `c`. -/
def present (cfg : Config) (c : Channel) : Bool :=
  (cfg.wiring c).hasRead && (cfg.wiring c).hasWrite && (cfg.wiring c).hasPeek

/-- R103: emit `DevNotify(c, k)` if a notifier is wired on channel `c`. -/
def notify (c : Channel) (k : NotifyCode) (s : State) : State :=
  if (s.cfg.wiring c).hasNotifier then s.emit (.devNotify c k) else s

/-- R103 `SetDis(c, newbit, enable_code)`: when the disable bit of channel `c` changes, notify and then change the bit. -/
def setDis (c : Channel) (newbit : Bool) (enableCode : NotifyCode) (s : State) : State :=
  if s.disabled c = newbit then s
  else
    let s1 := notify c (if newbit then .disable else enableCode) s
    s1.writeRam 0 (setBit (s1.ramByte 0) (disBit c) newbit)

/-- R111 `QPush(b)`: the newest push is dropped when the queue is full. -/
def qPush (b : Byte) (s : State) : State :=
  if s.q.length < s.cfg.queueCap then { s with q := s.q ++ [b] } else s

/-- `QPush` of each byte of a list in turn. -/
def qPushAll (bs : List Byte) (s : State) : State := bs.foldl (fun t b => qPush b t) s

/-- R112 `QPop()`: the oldest byte of a queue that is not empty, and the state without it. -/
def qPop (s : State) : Option (Byte × State) :=
  match s.q with
  | [] => none
  | b :: rest => some (b, { s with q := rest })

/-- R113 `QSkipToLast()`: only the most recently queued byte stays. -/
def qSkipToLast (s : State) : State :=
  match s.q.getLast? with
  | none => s
  | some b => { s with q := [b] }

/-- The answer of a command with a one-byte response (R113): `QPush(b); QSkipToLast()`. -/
def respond (b : Byte) (s : State) : State := qSkipToLast (qPush b s)

/-- R145: the 32 bytes of the RAM in index order. -/
def ramBytes (s : State) : List Byte := (List.range ramSize).map s.ramByte

/-- R176 `Forward(c)`. -/
def forward (c : Channel) (s : State) : State :=
  if (s.cfg.wiring c).hasWrite then s.emit (.devSend c s.inbuf) else s

/-- R177: the two `SetDis` calls of a write of `inbuf` to RAM byte 0, channel 0 first. -/
def configNotify (s : State) : State :=
  setDis .c1 (s.inbuf.getLsbD (disBit .c1)) .enableIrq (setDis .c0 (s.inbuf.getLsbD (disBit .c0)) .enableIrq s)

/-- R177 `RamWrite(i)`. -/
def ramWrite (i : Fin 287) (s : State) : State :=
  if i.val < ramSize then (if i.val = 0 then configNotify s else s).writeRam i.val s.inbuf else s

/-- R178, R160: emit `SysResetReq` when `keep` is 0. -/
def requestReset (keep : Bool) (s : State) : State := if keep then s else s.emit .sysResetReq

/-- R178 `OutportWrite()`. -/
def outportWrite (s : State) : State :=
  requestReset (s.inbuf.getLsbD 0) (State.emit { s with outport := s.inbuf } (.a20Set (s.inbuf.getLsbD 1)))

/-- R179: the service of the kinds `sim0` and `sim1`. -/
def simulate (c : Channel) (s : State) : State := s.setInj c (some s.inbuf)

/-- R180, R131 `SecurityInput()`. -/
def securityInput (s : State) : State :=
  if s.inbuf = 0x00#8 then { s with secKey := s.secSum, secMode := false } else { s with secSum := s.secSum + s.inbuf }

/-- R158, R159: `outport[1] <- level; emit A20Set(level)`. -/
def driveA20 (level : Bool) (s : State) : State :=
  State.emit { s with outport := setBit s.outport 1 level } (.a20Set level)

/-- R240 `RESET` of a running machine. The notifications compare with the live `ram[0]`; the parameters, the devices and
what the environment still issues are untouched (R244). -/
def resetOp (s : State) : State :=
  State.resetWith s.cfg s.dout (s.trace ++ resetEvents s.cfg (s.ramByte 0)) s.offers0 s.offers1 s.inputs

end Sys2Proof.Machine
end

