-- ==== Sys2Proof/Machine/ChannelCommands.lean ====
section
/-! DEFINITION. The commands 0xA7 to 0xAE: channel enable, tests and dump (spec 44_cmd_channel_and_test). -/

namespace Sys2Proof.Machine

/-- R140 `DIS1`: disable channel 1. -/
def execDis1 (s : State) : Host.Outcome State Fault Refusal := .next (setDis .c1 true .enableNoIrq s)

/-- R141 `EN1`: enable channel 1. -/
def execEn1 (s : State) : Host.Outcome State Fault Refusal := .next (setDis .c1 false .enableNoIrq s)

/-- R142, R144: answer whether the three handlers of channel `c` are wired. -/
def interfaceTest (c : Channel) (s : State) : State :=
  respond (if present s.cfg c then iftestPass else s.cfg.iftestFail c) s

/-- R142 `IFTEST1`: interface test of channel 1. -/
def execIftest1 (s : State) : Host.Outcome State Fault Refusal := .next (interfaceTest .c1 s)

/-- R143 `SELFTEST`: disable channel 0, then queue 0xFA and 0x55. -/
def execSelftest (s : State) : Host.Outcome State Fault Refusal :=
  .next (qPush selftestPass (qPush ackByte (setDis .c0 true .enableNoIrq s)))

/-- R144 `IFTEST0`: interface test of channel 0. -/
def execIftest0 (s : State) : Host.Outcome State Fault Refusal := .next (interfaceTest .c0 s)

/-- R145 `DUMP`: queue the 32 RAM bytes in order. -/
def execDump (s : State) : Host.Outcome State Fault Refusal := .next (qPushAll (ramBytes s) s)

/-- R146 `DIS0`: disable channel 0. -/
def execDis0 (s : State) : Host.Outcome State Fault Refusal := .next (setDis .c0 true .enableNoIrq s)

/-- R147 `EN0`: enable channel 0. -/
def execEn0 (s : State) : Host.Outcome State Fault Refusal := .next (setDis .c0 false .enableNoIrq s)

end Sys2Proof.Machine
end

