-- ==== Sys2Proof/Machine/Operands.lean ====
section
/-! DEFINITION. The operands: the RAM index (R120) and the redirection of a data write (R90, R211). -/

namespace Sys2Proof.Machine

/-- R14(a), R91, R120: the unwrapped sum of the 5-bit field and the base byte, 0 to 286. -/
def ramIndex (n : BitVec 5) (base : Byte) : Fin 287 :=
  ⟨n.toNat + base.toNat, by have := n.isLt; have := base.isLt; omega⟩

/-- R120: the RAM index of a RAM command, computed when it executes. -/
def State.ramIdx (s : State) (n : BitVec 5) : Fin 287 := ramIndex n (s.ramByte baseIdx)

/-- R120, R121: the index as a RAM index, when it is in range. -/
def inRange (i : Fin 287) : Option (Fin 32) := if h : i.val < 32 then some ⟨i.val, h⟩ else none

/-- R211: the kind of pending write a data write becomes, and the state with the one arm it consumes cleared. -/
def redirect (s : State) : PendingWrite × State :=
  if s.armOutport then (.outportwr, { s with armOutport := false })
  else if s.armSim0 then (.sim .c0, { s with armSim0 := false })
  else if s.armSim1 then (.sim .c1, { s with armSim1 := false })
  else if s.armAux then (.ch .c1, { s with armAux := false })
  else if s.secMode then (.security, s)
  else match s.ramWrIdx with
    | some i => (.ramwr i, { s with ramWrIdx := none })
    | none => (.ch .c0, s)

/-- R150: the two low bits change places. -/
def swapLowBits (v : Byte) : Byte := (v.extractLsb' 2 6 ++ v.extractLsb' 0 1 ++ v.extractLsb' 1 1 : BitVec (6 + 1 + 1))

end Sys2Proof.Machine
end

