-- ==== Sys2Proof/Machine/PortCommands.lean ====
section
/-! DEFINITION. The commands 0xC0 to 0xFF: virtual ports, redirections and lines, and the unassigned opcodes
(spec 45_cmd_ports_and_lines). -/

namespace Sys2Proof.Machine

/-- R150 `RDINP`: queue the input port; the vendor variant then exchanges its two low bits. -/
def execRdinp (s : State) : Host.Outcome State Fault Refusal :=
  let s1 := respond s.inport s
  .next (if s1.cfg.variantC0Rotate then { s1 with inport := swapLowBits s1.inport } else s1)

/-- R151 `POLLINLO`: the next status read shows bits 3:0 of the input port. -/
def execPollinlo (s : State) : Host.Outcome State Fault Refusal :=
  .next { s with stOverride := some (s.inport.extractLsb' 0 4) }

/-- R152 `POLLINHI`: the next status read shows bits 7:4 of the input port. -/
def execPollinhi (s : State) : Host.Outcome State Fault Refusal :=
  .next { s with stOverride := some (s.inport.extractLsb' 4 4) }

/-- R153 `RDOUTP`: a read of the output port is pending. -/
def execRdoutp (s : State) : Host.Outcome State Fault Refusal :=
  .next { s with rdOutport := true, ramRdIdx := none, ramWrIdx := none }

/-- R154 `WROUTP`: the next data write goes to the output port. -/
def execWroutp (s : State) : Host.Outcome State Fault Refusal := .next { s with armOutport := true }

/-- R155 `SIM0`: the next data write is injected on channel 0. -/
def execSim0 (s : State) : Host.Outcome State Fault Refusal := .next { s with armSim0 := true }

/-- R156 `SIM1`: the next data write is injected on channel 1; a pending `SIM0` is cancelled. -/
def execSim1 (s : State) : Host.Outcome State Fault Refusal := .next { s with armSim1 := true, armSim0 := false }

/-- R157 `WRAUX`: the next data write is forwarded to channel 1. -/
def execWraux (s : State) : Host.Outcome State Fault Refusal := .next { s with armAux := true }

/-- R158 `A20ON`: enable the A20 line. -/
def execA20on (s : State) : Host.Outcome State Fault Refusal := .next (driveA20 true s)

/-- R159 `A20OFF`: disable the A20 line. -/
def execA20off (s : State) : Host.Outcome State Fault Refusal := .next (driveA20 false s)

/-- R160 `PULSE m`: request a system reset when opcode bit 0 is 0. -/
def execPulse (_m : BitVec 3) (r : Bool) (s : State) : Host.Outcome State Fault Refusal := .next (requestReset r s)

/-- R161 `UNDEF`: an empty body. -/
def execUndef (_op : Byte) (s : State) : Host.Outcome State Fault Refusal := .next s

end Sys2Proof.Machine
end

