-- ==== Sys2Proof/Machine/Flags.lean ====
section
/-! DEFINITION. The status byte (R30, R85, R212) and the status flags a latched write sets (R26, R27). -/

namespace Sys2Proof.Machine

/-- R85, R212: the status byte before the override and the mask, `(aux << 5) | (cmdflag << 3) | (ibf << 1) | obf`. -/
def rawStatus (s : State) : Byte :=
  ((BitVec.ofBool s.aux).setWidth 8 <<< 5) ||| ((BitVec.ofBool s.cmdflag).setWidth 8 <<< 3)
    ||| ((BitVec.ofBool s.ibf).setWidth 8 <<< 1) ||| (BitVec.ofBool s.obf).setWidth 8

/-- R212: the one-shot override replaces bits 7:4. -/
def overrideStatus (o : Option Nibble) (v : Byte) : Byte :=
  match o with
  | none => v
  | some n => (n.setWidth 8 <<< 4) ||| (v &&& 0x0F#8)

/-- R212: the transient mask clears bit 0. -/
def maskStatus (hide : Bool) (v : Byte) : Byte := if hide then v &&& 0xFE#8 else v

/-- R212: the byte `RDSTAT` returns. -/
def statusByte (s : State) : Byte := maskStatus s.hideObf (overrideStatus s.stOverride (rawStatus s))

/-- R213: latch the command byte `v`. -/
def latchCommand (v : Byte) (s : State) : State :=
  { s with cmd := v, cmdflag := true, ibf := true, pw := some .command }

/-- R211: latch the data byte `v` as a pending write of kind `k`. -/
def latchData (v : Byte) (k : PendingWrite) (s : State) : State :=
  { s with inbuf := v, cmdflag := false, ibf := true, pw := some k }

/-- R175: release the latch after its service. -/
def releaseLatch (s : State) : State := { s with pw := none, ibf := false }

end Sys2Proof.Machine
end

