-- ==== Sys2Proof/Machine/Ports.lean ====
section
/-! DEFINITION. The four host port operations (spec 48_port_access). -/

namespace Sys2Proof.Machine

/-- R210 `RDDATA`: return `outbuf`; a read that finds `obf = 1` empties the buffer and lowers both lines. -/
def execRddata (s : State) : Host.Outcome State Fault Refusal :=
  let s1 := { s with dout := s.outbuf }
  if s.obf then
    .next { lowerIrq .irq12 (lowerIrq .irq1 { s1 with obf := false, aux := false }) with hideObf := false }
  else .next s1

/-- R211 `WRDATA(v)`: latch a data byte for the redirection that is armed; a write while one is latched is dropped. -/
def execWrdata (v : Byte) (s : State) : Host.Outcome State Fault Refusal :=
  match s.pw with
  | some _ => .next s
  | none => .next (latchData v (redirect s).1 (redirect s).2)

/-- R212 `RDSTAT`: return the status byte and consume the override. -/
def execRdstat (s : State) : Host.Outcome State Fault Refusal :=
  .next { s with dout := statusByte s, stOverride := none }

/-- R213 `WRCMD(v)`: latch a command; a write while one is latched is dropped. -/
def execWrcmd (v : Byte) (s : State) : Host.Outcome State Fault Refusal :=
  match s.pw with
  | some _ => .next s
  | none => .next (latchCommand v s)

end Sys2Proof.Machine
end

