-- ==== Sys2Proof/Machine/RamCommands.lean ====
section
/-! DEFINITION. The commands 0x00 to 0x7F (spec 42_cmd_ram). Here and in the files of the other command families a meaning
is the body `Exec(cmd)` of the rule: what the engine does around every command (R175) stands in Machine/Engine.lean. -/

namespace Sys2Proof.Machine

/-- R121 `RDRAM n`: a RAM read is pending when the index is in range. -/
def execRdram (_x : Bool) (n : BitVec 5) (s : State) : Host.Outcome State Fault Refusal :=
  .next { s with rdOutport := false, ramWrIdx := none, ramRdIdx := inRange (s.ramIdx n) }

/-- R122 `WRRAM n`: arm a RAM write, also when the index is out of range. -/
def execWrram (_x : Bool) (n : BitVec 5) (s : State) : Host.Outcome State Fault Refusal :=
  .next { s with rdOutport := false, ramRdIdx := none, ramWrIdx := some (s.ramIdx n) }

end Sys2Proof.Machine
end

