-- ==== Sys2Proof/Machine/Security.lean ====
section
/-! DEFINITION. The commands 0xA4 to 0xA6 (spec 43_cmd_security). -/

namespace Sys2Proof.Machine

/-- R130 `PWTEST`: answer whether the stored key equals the checksum. -/
def execPwtest (s : State) : Host.Outcome State Fault Refusal :=
  .next (respond (if s.secKey = s.secSum then s.cfg.secMatch else s.cfg.secNomatch) s)

/-- R131 `PWLOAD`: start the accumulation of a checksum. -/
def execPwload (s : State) : Host.Outcome State Fault Refusal :=
  .next { s with secSum := 0x00#8, secMode := true }

/-- R132 `PWENABLE`: an empty body. -/
def execPwenable (s : State) : Host.Outcome State Fault Refusal := .next s

end Sys2Proof.Machine
end

