-- ==== Sys2Proof/Machine/Dispatch.lean ====
section
/-! DEFINITION. The meaning of each instruction. -/

namespace Sys2Proof.Machine

def exec (i : Instr) (s : State) : Host.Outcome State Fault Refusal :=
  match i with
  | .rddata => Sys2Proof.Machine.execRddata s
  | .wrdata v => Sys2Proof.Machine.execWrdata v s
  | .rdstat => Sys2Proof.Machine.execRdstat s
  | .wrcmd v => Sys2Proof.Machine.execWrcmd v s
  | .rdram x n => Sys2Proof.Machine.execRdram x n s
  | .wrram x n => Sys2Proof.Machine.execWrram x n s
  | .pwtest => Sys2Proof.Machine.execPwtest s
  | .pwload => Sys2Proof.Machine.execPwload s
  | .pwenable => Sys2Proof.Machine.execPwenable s
  | .dis1 => Sys2Proof.Machine.execDis1 s
  | .en1 => Sys2Proof.Machine.execEn1 s
  | .iftest1 => Sys2Proof.Machine.execIftest1 s
  | .selftest => Sys2Proof.Machine.execSelftest s
  | .iftest0 => Sys2Proof.Machine.execIftest0 s
  | .dump => Sys2Proof.Machine.execDump s
  | .dis0 => Sys2Proof.Machine.execDis0 s
  | .en0 => Sys2Proof.Machine.execEn0 s
  | .rdinp => Sys2Proof.Machine.execRdinp s
  | .pollinlo => Sys2Proof.Machine.execPollinlo s
  | .pollinhi => Sys2Proof.Machine.execPollinhi s
  | .rdoutp => Sys2Proof.Machine.execRdoutp s
  | .wroutp => Sys2Proof.Machine.execWroutp s
  | .sim0 => Sys2Proof.Machine.execSim0 s
  | .sim1 => Sys2Proof.Machine.execSim1 s
  | .wraux => Sys2Proof.Machine.execWraux s
  | .a20on => Sys2Proof.Machine.execA20on s
  | .a20off => Sys2Proof.Machine.execA20off s
  | .pulse m r => Sys2Proof.Machine.execPulse m r s
  | .undef op => Sys2Proof.Machine.execUndef op s

end Sys2Proof.Machine
end

