-- ==== Sys2Proof/Machine/Filler.lean ====
section
/-! DEFINITION. The output buffer filler (spec 47_output_filler): the choice of the next host-bound byte, the translation of
channel-0 bytes, and the interrupt arbitration. -/

namespace Sys2Proof.Machine

/-- R183: whether the Filler may poll the physical device of channel `c`. -/
def pollable (s : State) (c : Channel) : Bool :=
  (s.cfg.wiring c).hasPeek && (s.cfg.wiring c).hasRead && !(s.cfg.gatePollOnDisable && s.disabled c)

/-- R183 `ChanHasByte(c)`. -/
def chanHasByte (s : State) (c : Channel) : Bool := (s.inj c).isSome || (s.avail c && pollable s c)

/-- R193: the byte the Filler takes from channel `c` and the state without it: the injected byte first, else `DevTake(c)`;
`none` when the channel has no byte (`takeByte_isSome`). -/
def takeByte (s : State) (c : Channel) : Option (Byte × State) :=
  match s.inj c with
  | some b => some (b, s.setInj c none)
  | none =>
    match s.offers c with
    | [] => none
    | b :: rest => if pollable s c then some (b, s.setOffers c rest) else none

/-- R193: what `PollChannels()` answers. -/
inductive Polled where
  /-- No channel has a byte. -/
  | empty
  /-- A translation prefix was consumed. -/
  | escape (t : State)
  /-- Channel `c` gave the byte `v`. -/
  | byte (c : Channel) (v : Byte) (t : State)
deriving DecidableEq, Repr

/-- R194: entry `b` of the translation table. -/
def xlatEntry (cfg : Config) (b : Byte) : Byte := cfg.xlat[b.toNat]'b.isLt

/-- R194 `Translate(raw)`. -/
def translateByte (raw : Byte) (s : State) : Polled :=
  if raw = xlatEscByte then .escape { s with xlatEsc := true }
  else
    let v := xlatEntry s.cfg raw
    .byte .c0 (if s.xlatEsc then v ||| xlatEscBit else v) { s with xlatEsc := false }

/-- R193: what becomes of a byte taken from channel `c`. -/
def receive (c : Channel) (raw : Byte) (s : State) : Polled :=
  if c = .c0 ∧ s.xlate = true then translateByte raw s else .byte c raw s

/-- R193 `PollChannels()` over the channels of a list. -/
def pollIn : List Channel → State → Polled
  | [], _ => .empty
  | c :: cs, s =>
    match takeByte s c with
    | some (raw, t) => receive c raw t
    | none => pollIn cs s

/-- R193 `PollChannels()`. -/
def pollChannels (s : State) : Polled := pollIn s.cfg.pollOrder.channels s

/-- R197: raise the owning channel's line if its interrupts are enabled. -/
def raiseOwner (owner : Channel) (s : State) : State :=
  if s.intEnabled owner then raiseIrq (lineOf owner) s else s

/-- R196: the registers of a completion. -/
def loadOutbuf (v : Byte) (owner : Channel) (s : State) : State :=
  { s with outbuf := v, obf := true, aux := decide (owner = .c1) }

/-- R196, R197 `Complete(v, owner)`. -/
def complete (v : Byte) (owner : Channel) (s : State) : State :=
  raiseOwner owner (lowerIrq .irq12 (lowerIrq .irq1 (loadOutbuf v owner s)))

/-- R190: what `Fill()` answers. -/
inductive FillResult where
  | produced
  | swallowed
  | nothing
deriving DecidableEq, Repr

/-- R193: Filler path 4, the device channels. -/
def fillFromChannels (s : State) : FillResult × State :=
  match pollChannels s with
  | .empty => (.nothing, s)
  | .escape t => (.swallowed, t)
  | .byte c v t => (.produced, complete v c t)

/-- R190 `Fill()`: strict priority, first match wins. -/
def fill (s : State) : FillResult × State :=
  if s.rdOutport then (.produced, complete s.outport .c0 { s with rdOutport := false })
  else match s.ramRdIdx with
    | some i => (.produced, complete (s.ramByte i.val) .c0 { s with ramRdIdx := none })
    | none =>
      match qPop s with
      | some (b, t) => (.produced, complete b .c0 t)
      | none => fillFromChannels s

end Sys2Proof.Machine
end

