-- ==== Sys2Proof/Machine/Engine.lean ====
section
/-! DEFINITION. The clocked transfer engine (spec 46_transfer_engine): accrual, the idle test, the service loop and the write
service; and what one operation of the environment does. -/

namespace Sys2Proof.Machine

/-- The state an outcome goes on with, given to `f`. -/
def andThen (o : Host.Outcome State Fault Refusal) (f : State → Host.Outcome State Fault Refusal) :
    Host.Outcome State Fault Refusal :=
  match o with
  | .next s => f s
  | .fault r => .fault r
  | .refused r => .refused r

/-- R175, R133: the service of a latched command: the security mode ends, then the command executes. -/
def serviceCommand (s : State) : Host.Outcome State Fault Refusal :=
  exec (decodeCommand s.cmd) { s with secMode := false }

/-- R175: the service of a latched write of kind `k`, before the latch is released. -/
def serviceKind (k : PendingWrite) (s : State) : Host.Outcome State Fault Refusal :=
  match k with
  | .command => serviceCommand s
  | .ch c => .next (forward c s)
  | .ramwr i => .next (ramWrite i s)
  | .outportwr => .next (outportWrite s)
  | .sim c => .next (simulate c s)
  | .security => .next (securityInput s)

/-- R175 `ServiceWrite()`. -/
def serviceWrite (s : State) : Host.Outcome State Fault Refusal :=
  match s.pw with
  | none => .next s
  | some k => andThen (serviceKind k s) (fun t => .next (releaseLatch t))

/-- R171: the accrual of `n` master cycles. -/
def accrue (n : Nat) (s : State) : State :=
  { s with acc := (s.acc + n) % s.cfg.clkPerBit, budget := s.budget + (s.acc + n) / s.cfg.clkPerBit }

/-- R172 `WriteReady`. -/
def writeReady (s : State) : Bool := s.pw.isSome

/-- R172 `HasSource`. -/
def hasSource (s : State) : Bool :=
  s.rdOutport || s.ramRdIdx.isSome || !s.q.isEmpty || chanHasByte s .c0 || chanHasByte s .c1

/-- R172 `ReadReady`. -/
def readReady (s : State) : Bool := !s.obf && hasSource s

/-- R173: what a pass has done so far. -/
structure PassFlags where
  rDone    : Bool
  wDone    : Bool
  rBlocked : Bool
deriving DecidableEq, Repr

/-- R173: the flags a pass starts with. -/
def PassFlags.start : PassFlags := { rDone := false, wDone := false, rBlocked := false }

/-- R173: output servicing in one iteration; the Boolean says whether it made progress. -/
def readAttempt (f : PassFlags) (s : State) : PassFlags × State × Bool :=
  if f.rDone = false ∧ f.rBlocked = false ∧ costRead ≤ s.budget ∧ s.obf = false then
    match fill s with
    | (.produced, t)  => ({ f with rDone := true }, { t with budget := t.budget - costRead }, true)
    | (.swallowed, t) => ({ f with rBlocked := true }, t, false)
    | (.nothing, t)   => (f, t, false)
  else (f, s, false)

/-- R173: whether input servicing is due in one iteration. -/
def writeDue (f : PassFlags) (s : State) : Bool := !f.wDone && decide (costWrite ≤ s.budget) && s.pw.isSome

/-- R173: the service loop, with the number of iterations it may still make. Its body runs at most three times, because every
iteration but the last does the one read or the one write of the pass. -/
def serviceLoop : Nat → PassFlags → State → Host.Outcome State Fault Refusal
  | 0, _, s => .next s
  | k + 1, f, s =>
    let r := readAttempt f s
    if writeDue r.1 r.2.1 then
      andThen (serviceWrite r.2.1) (fun t =>
        serviceLoop k { r.1 with wDone := true } { t with budget := t.budget - costWrite })
    else if r.2.2 then serviceLoop k r.1 r.2.1
    else .next r.2.1

/-- R172, R173: the pass. -/
def pass (s : State) : Host.Outcome State Fault Refusal :=
  if writeReady s || readReady s then serviceLoop 3 PassFlags.start s else .next { s with budget := 0 }

/-- R171 to R173 `TICK(n)`. -/
def tick (n : Nat) (s : State) : Host.Outcome State Fault Refusal := pass (accrue n s)

/-- R10, R11: one operation of the environment. -/
def runOp (op : Op) (s : State) : Host.Outcome State Fault Refusal :=
  match op with
  | .port p din => exec (decodePort p din) s
  | .tick n => tick n s
  | .reset => .next (resetOp s)
  | .offer c b => .next (s.setOffers c (s.offers c ++ [b]))
  | .setOffers c bs => .next (s.setOffers c bs)

/-- R11: the next operation of the environment is taken and carried out. The block never acts except inside an operation
issued to it: with none, nothing changes. -/
def runNext (s : State) : Host.Outcome State Fault Refusal :=
  match s.inputs with
  | [] => .next s
  | op :: rest => runOp op { s with inputs := rest }

/-- One step: a configuration that asks for the unspecified security variant is refused (R134), every other runs. -/
def stepOp (s : State) : Host.Outcome State Fault Refusal :=
  match s.cfg.security with
  | .compaq => .refused .compaqSecurity
  | .standard => runNext s

/-- Place a table word so that the next step runs it (log entry 5). A port operation becomes the environment's next
operation. A command is latched as an accepted `WRCMD` latches it (R213), and the next operation is a `TICK(0)` whose pass
can pay for it: 12 bit-clocks, and 11 more when a read is ready, because output servicing goes first (R173). -/
def placeWord (s : State) (nbits w : Nat) : State :=
  match tableSpace nbits w with
  | .hostport => { s with inputs := .port (BitVec.ofNat 2 w) (BitVec.ofNat 8 (w / 256)) :: s.inputs }
  | .command =>
    let s1 := latchCommand (BitVec.ofNat 8 w) s
    { s1 with budget := (if readReady s then costRead + costWrite else costWrite), inputs := .tick 0 :: s.inputs }

end Sys2Proof.Machine
end

