-- ==== Sys2Proof/Machine/Step.lean ====
section
/-! DEFINITION. One step of the machine, and the placing of an instruction where the step fetches it. Both only call
Machine/Engine.lean. -/

namespace Sys2Proof.Machine

/-- One step: the next operation of the environment. -/
def step (s : State) : Host.Outcome State Fault Refusal := stepOp s

/-- The state with an instruction of spec/opcode_table.json placed so that the next step runs it. -/
def State.withFetchWord (s : State) (nbits w : Nat) : State := placeWord s nbits w

end Sys2Proof.Machine
end

