-- ==== Sys2Proof/Safety.lean ====
section
/-! DEFINITION. The terms in which statements speak of runs: the invariant of the state (spec 10_state section 8), and the
services of a run with the time it was given (R184). -/

namespace Sys2Proof.Machine

/-- R53: AUX implies output-full. -/
abbrev State.auxOk (s : State) : Prop := s.aux = true → s.obf = true

/-- R54: input-full exactly when a host write is latched. -/
abbrev State.ibfOk (s : State) : Prop := s.ibf = s.pw.isSome

/-- R55: at most one of the three pending-access fields is set. -/
abbrev State.pendingOk (s : State) : Prop :=
  (s.rdOutport = true → s.ramRdIdx = none ∧ s.ramWrIdx = none) ∧ (s.ramRdIdx ≠ none → s.ramWrIdx = none)

/-- R56: the accumulator stays below one bit-clock and the queue within its capacity. -/
abbrev State.boundsOk (s : State) : Prop := s.acc < s.cfg.clkPerBit ∧ s.q.length ≤ s.cfg.queueCap

/-- The configuration RAM is in canonical form. -/
abbrev State.ramOk (s : State) : Prop := Memory.wf s.cfg.cfg0Reset s.ram = true

/-- The invariant of the state: R53 to R56, the canonical form of the RAM, and R29 (no rule sets `hide_obf`). -/
abbrev State.inv (s : State) : Prop :=
  s.auxOk ∧ s.ibfOk ∧ s.pendingOk ∧ s.boundsOk ∧ s.ramOk ∧ s.hideObf = false

/-- The configuration does not ask for the unspecified security variant (R134). -/
abbrev State.standard (s : State) : Prop := s.cfg.security = .standard

/-- The next operation is a `TICK`. -/
def State.ticks (s : State) : Bool :=
  match s.inputs with
  | .tick _ :: _ => true
  | _ => false

/-- The master cycles of the `TICK`s among a list of operations. -/
def masterCycles : List Op → Nat
  | [] => 0
  | .tick n :: rest => n + masterCycles rest
  | _ :: rest => masterCycles rest

/-- R184: the produced fills of one step from `s` to `t`: 1 when a `TICK` fills the output buffer. A `TICK` sets `obf` only by
a produced fill and never clears it (R25). -/
def fillsIn (s t : State) : Nat := if s.ticks = true ∧ s.obf = false ∧ t.obf = true then 1 else 0

/-- R184: the serviced writes of one step from `s` to `t`: 1 when a `TICK` releases the latch (R175). -/
def writesIn (s t : State) : Nat := if s.ticks = true ∧ s.pw ≠ none ∧ t.pw = none then 1 else 0

/-- R184: the produced fills and serviced writes of the first `k` steps from `s`. -/
def services : Nat → State → Nat × Nat
  | 0, _ => (0, 0)
  | k + 1, s =>
    match step s with
    | .next t => (fillsIn s t + (services k t).1, writesIn s t + (services k t).2)
    | .fault _ => (0, 0)
    | .refused _ => (0, 0)

end Sys2Proof.Machine
end

