-- ==== Sys2Proof/Certificates/Slice0/Obligations.lean ====
section
/-! DEFINITION. The statements for the provers. `State.ramOk` (the RAM is canonical) is a premise only where a statement reads
a RAM byte after a RAM write; that every step keeps it is part of `StepKeepsTheStateInvariant`. -/

open Sys2Proof Sys2Proof.Machine

/-! ### Encoding -/

/-- R80 to R84, R93: decoding the bytes of a well-formed instruction gives it back, with every operand at every value. -/
def Obligations.DecodeOfEncodeIsTheInstruction : Prop :=
  ∀ (i : Instr) (rest : List Byte), i.wf = true → decode i.space (encode i ++ rest) = .ok (i, rest)

/-- R81, R93: every byte is the encoding of exactly the command it decodes to. -/
def Obligations.EveryCommandByteEncodesBack : Prop :=
  ∀ v : Byte, (decodeCommand v).wf = true ∧ (decodeCommand v).space = .command ∧ encode (decodeCommand v) = [v]

/-- R93: a byte matches the row of an instruction of the command space exactly when it decodes to an instruction of that row. -/
def Obligations.EveryCommandByteMatchesOneRow : Prop :=
  ∀ (v : Byte) (i : Instr), i.wf = true → i.space = .command →
    (v &&& (rowOf i).1 = (rowOf i).2 ↔ rowOf (decodeCommand v) = rowOf i)

/-- R81, R82, R83, R84, R94: a few command bytes written out from the spec's encodings. The four port words hold the pattern of
R80 in a byte layout that is the model's choice (log entry 20): the pattern in bits 1:0, bits 7:2 zero, the written byte second. -/
def Obligations.SpecWordsDecode : Prop :=
  decode .hostport [0b00#8] = .ok (.rddata, []) ∧ decode .hostport [0b01#8, 0xED#8] = .ok (.wrdata 0xED#8, [])
    ∧ decode .hostport [0b10#8] = .ok (.rdstat, []) ∧ decode .hostport [0b11#8, 0xAA#8] = .ok (.wrcmd 0xAA#8, [])
    ∧ decodeCommand 0b01100001#8 = .wrram true 1#5 ∧ decodeCommand 0b00100001#8 = .rdram true 1#5
    ∧ decodeCommand 0b10101010#8 = .selftest ∧ decodeCommand 0b11111110#8 = .pulse 0b111#3 false
    ∧ decodeCommand 0b11100101#8 = .undef 0xE5#8

/-! ### The step -/

/-- R60, R80: when the next operation is a bus transaction, the step runs the instruction it decodes to, with that operation
taken from the environment's list and nothing else around it. That the operations to come stand in a list is the model's form
of R11 (log entry 4). -/
def Obligations.StepRunsTheDecodedPortOperation : Prop :=
  ∀ (s : State) (p : BitVec 2) (din : Byte) (rest : List Op), s.standard → s.inputs = .port p din :: rest →
    step s = exec (decodePort p din) { s with inputs := rest }

/-- R171, R173, R175: when the next operation is a `TICK` that can pay for the latched command and no read can be serviced in
its pass, the step runs the instruction the command byte decodes to, with the security mode ended before it and the latch
released and 12 bit-clocks spent after it. -/
def Obligations.TickRunsTheDecodedCommand : Prop :=
  ∀ (s : State) (n : Nat) (rest : List Op), s.standard → s.inputs = .tick n :: rest → s.pw = some .command →
    12 ≤ s.budget + (s.acc + n) / s.cfg.clkPerBit →
    (s.obf = true ∨ (hasSource s = false ∧ s.budget + (s.acc + n) / s.cfg.clkPerBit < 23)) →
    ∃ t, exec (decodeCommand s.cmd)
        { s with
          inputs := rest, acc := (s.acc + n) % s.cfg.clkPerBit
          budget := s.budget + (s.acc + n) / s.cfg.clkPerBit, secMode := false } = .next t
      ∧ step s = .next { t with
          pw := none, ibf := false, budget := s.budget + (s.acc + n) / s.cfg.clkPerBit - 12 }

/-- R11: the block never acts except inside an operation issued to it. That a step with no operation left is a step that
changes nothing is the model's form of it (log entry 4). -/
def Obligations.NoOperationChangesNothing : Prop :=
  ∀ s : State, s.standard → s.inputs = [] → step s = .next s

/-- R134: a configuration that selects the "Compaq" security variant is refused. That the step is what is refused is the
model's reading (log entry 8). -/
def Obligations.CompaqVariantIsRefused : Prop :=
  ∀ s : State, s.cfg.security = .compaq → step s = .refused .compaqSecurity

/-- R220: every operation is defined on every state; a step never faults. -/
def Obligations.EveryStepAnswersANextState : Prop :=
  ∀ s : State, s.standard → ∃ t, step s = .next t

/-! ### Port operations -/

/-- R210: `RDDATA`. -/
def Obligations.RddataReturnsTheOutputBuffer : Prop :=
  (∀ din : Byte, decodePort 0b00#2 din = .rddata)
    ∧ ∀ s : State,
      (s.obf = false → exec .rddata s = .next { s with dout := s.outbuf })
        ∧ (s.obf = true → ∃ t, exec .rddata s = .next t
          ∧ t = { s with
              dout := s.outbuf, obf := false, aux := false, hideObf := false, outport := t.outport
              trace := s.trace ++ [.irqLower .irq1, .irqLower .irq12] }
          ∧ (∀ i, t.outport.getLsbD i = if i = 4 ∨ i = 5 then false else s.outport.getLsbD i)
          ∧ ∀ a, t.ramByte a = s.ramByte a)

/-- R211: `WRDATA(v)`: a write while one is latched is dropped; else the first redirection of the list takes the byte and only
its arm is cleared. -/
def Obligations.WrdataIsTakenByTheFirstRedirection : Prop :=
  (∀ din : Byte, decodePort 0b01#2 din = .wrdata din)
    ∧ ∀ (s : State) (v : Byte),
      (s.pw ≠ none → exec (.wrdata v) s = .next s)
        ∧ (s.pw = none → exec (.wrdata v) s = .next
          (let t := { s with inbuf := v, cmdflag := false, ibf := true }
          if s.armOutport = true then { t with pw := some .outportwr, armOutport := false }
          else if s.armSim0 = true then { t with pw := some (.sim .c0), armSim0 := false }
          else if s.armSim1 = true then { t with pw := some (.sim .c1), armSim1 := false }
          else if s.armAux = true then { t with pw := some (.ch .c1), armAux := false }
          else if s.secMode = true then { t with pw := some .security }
          else match s.ramWrIdx with
            | some i => { t with pw := some (.ramwr i), ramWrIdx := none }
            | none => { t with pw := some (.ch .c0) }))

/-- R212, R85: `RDSTAT`: the status byte bit by bit, and the override consumed. -/
def Obligations.RdstatReturnsTheStatusByte : Prop :=
  (∀ din : Byte, decodePort 0b10#2 din = .rdstat)
    ∧ ∀ s : State, ∃ t, exec .rdstat s = .next t
      ∧ t = { s with dout := t.dout, stOverride := none }
      ∧ t.dout.getLsbD 0 = (s.obf && !s.hideObf) ∧ t.dout.getLsbD 1 = s.ibf ∧ t.dout.getLsbD 2 = false
      ∧ t.dout.getLsbD 3 = s.cmdflag
      ∧ (s.stOverride = none → t.dout.getLsbD 4 = false ∧ t.dout.getLsbD 5 = s.aux ∧ t.dout.getLsbD 6 = false
          ∧ t.dout.getLsbD 7 = false)
      ∧ (∀ n, s.stOverride = some n → ∀ i, i < 4 → t.dout.getLsbD (4 + i) = n.getLsbD i)
      ∧ ∀ a, t.ramByte a = s.ramByte a

/-- R213: `WRCMD(v)`. -/
def Obligations.WrcmdLatchesTheCommand : Prop :=
  (∀ din : Byte, decodePort 0b11#2 din = .wrcmd din)
    ∧ ∀ (s : State) (v : Byte),
      (s.pw ≠ none → exec (.wrcmd v) s = .next s)
        ∧ (s.pw = none → exec (.wrcmd v) s = .next { s with cmd := v, cmdflag := true, ibf := true, pw := some .command })

/-! ### RAM commands -/

/-- R120, R121: `RDRAM n`. -/
def Obligations.RdramMakesAnInRangeReadPending : Prop :=
  (∀ (x : Bool) (n : BitVec 5), decodeCommand (0b00#2 ++ BitVec.ofBool x ++ n : BitVec (2 + 1 + 5)) = .rdram x n)
    ∧ ∀ (s : State) (x : Bool) (n : BitVec 5), ∃ t, exec (.rdram x n) s = .next t
      ∧ t = { s with rdOutport := false, ramWrIdx := none, ramRdIdx := t.ramRdIdx }
      ∧ (n.toNat + (s.ramByte 0x0B).toNat ≤ 31 →
          ∃ i : Fin 32, i.val = n.toNat + (s.ramByte 0x0B).toNat ∧ t.ramRdIdx = some i)
      ∧ (31 < n.toNat + (s.ramByte 0x0B).toNat → t.ramRdIdx = none)
      ∧ ∀ a, t.ramByte a = s.ramByte a

/-- R120, R122: `WRRAM n`. -/
def Obligations.WrramArmsAWriteOfEveryIndex : Prop :=
  (∀ (x : Bool) (n : BitVec 5), decodeCommand (0b01#2 ++ BitVec.ofBool x ++ n : BitVec (2 + 1 + 5)) = .wrram x n)
    ∧ ∀ (s : State) (x : Bool) (n : BitVec 5), ∃ (t : State) (i : Fin 287), exec (.wrram x n) s = .next t
      ∧ i.val = n.toNat + (s.ramByte 0x0B).toNat
      ∧ t = { s with rdOutport := false, ramRdIdx := none, ramWrIdx := some i }
      ∧ ∀ a, t.ramByte a = s.ramByte a

/-! ### Security commands -/

/-- R130, R111, R113: `PWTEST`: the answer alone is queued; when the queue was full, its last byte alone stays. -/
def Obligations.PwtestQueuesItsAnswerAlone : Prop :=
  decodeCommand 0xA4#8 = .pwtest
    ∧ ∀ s : State, exec .pwtest s = .next { s with
      q := if s.q.length < s.cfg.queueCap then [if s.secKey = s.secSum then s.cfg.secMatch else s.cfg.secNomatch]
        else s.q.getLast?.toList }

/-- R131: `PWLOAD`, and the service of a data byte in the mode it starts. -/
def Obligations.PwloadAccumulatesUntilAZeroByte : Prop :=
  decodeCommand 0xA5#8 = .pwload
    ∧ ∀ s : State,
      exec .pwload s = .next { s with secSum := 0x00#8, secMode := true }
        ∧ (∀ v : Byte, s.secMode = true → s.pw = none → s.armOutport = false → s.armSim0 = false → s.armSim1 = false →
            s.armAux = false → exec (.wrdata v) s = .next
              { s with inbuf := v, cmdflag := false, ibf := true, pw := some .security })
        ∧ (s.pw = some .security → s.inbuf = 0x00#8 →
            serviceWrite s = .next { s with secKey := s.secSum, secMode := false, pw := none, ibf := false })
        ∧ (s.pw = some .security → s.inbuf ≠ 0x00#8 → ∃ t, serviceWrite s = .next t
            ∧ t = { s with secSum := t.secSum, pw := none, ibf := false }
            ∧ t.secSum.toNat = (s.secSum.toNat + s.inbuf.toNat) % 256)

/-- R132, R161: `PWENABLE` and the unassigned opcodes have an empty body. -/
def Obligations.EmptyBodiesChangeNothing : Prop :=
  decodeCommand 0xA6#8 = .pwenable ∧ (∀ op : Byte, unassigned op = true → decodeCommand op = .undef op)
    ∧ ∀ s : State, exec .pwenable s = .next s ∧ ∀ op : Byte, exec (.undef op) s = .next s

/-! ### Channel commands -/

/-- R103, R140, R141, R146, R147: the four enable commands: the disable bit, the notification exactly when the bit changes, and
everything else unchanged. -/
def Obligations.EnableCommandsSetTheDisableBit : Prop :=
  (decodeCommand 0xA7#8 = .dis1 ∧ decodeCommand 0xA8#8 = .en1 ∧ decodeCommand 0xAD#8 = .dis0 ∧ decodeCommand 0xAE#8 = .en0)
    ∧ ∀ (s : State) (i : Instr) (c : Channel) (b : Bool), s.ramOk →
      (i, c, b) ∈ [(Instr.dis0, Channel.c0, true), (.dis1, .c1, true), (.en0, .c0, false), (.en1, .c1, false)] →
      ∃ t, exec i s = .next t
        ∧ t = { s with ram := t.ram, trace := t.trace }
        ∧ (∀ j, (t.ramByte 0).getLsbD j = if j = (match c with | .c0 => 4 | .c1 => 5) then b else (s.ramByte 0).getLsbD j)
        ∧ (∀ a, a ≠ 0 → t.ramByte a = s.ramByte a)
        ∧ t.trace = s.trace ++
            if (s.ramByte 0).getLsbD (match c with | .c0 => 4 | .c1 => 5) ≠ b
                ∧ (match c with | .c0 => s.cfg.dev0.hasNotifier | .c1 => s.cfg.dev1.hasNotifier) = true
              then [.devNotify c (if b then .disable else .enableNoIrq)] else []

/-- R103, R140, R141: an enable command repeated changes nothing and notifies no one. -/
def Obligations.RepeatedEnableCommandIsInert : Prop :=
  ∀ (s t : State) (i : Instr), s.ramOk → i ∈ [Instr.dis0, .dis1, .en0, .en1] → exec i s = .next t → exec i t = .next t

/-- R102, R142, R144: the interface tests. -/
def Obligations.InterfaceTestsQueueTheirAnswerAlone : Prop :=
  (decodeCommand 0xA9#8 = .iftest1 ∧ decodeCommand 0xAB#8 = .iftest0)
    ∧ ∀ s : State,
      exec .iftest1 s = .next { s with
        q := if s.q.length < s.cfg.queueCap then
            [if s.cfg.dev1.hasRead = true ∧ s.cfg.dev1.hasWrite = true ∧ s.cfg.dev1.hasPeek = true then 0x00#8
              else s.cfg.iftestFail1]
          else s.q.getLast?.toList }
        ∧ exec .iftest0 s = .next { s with
          q := if s.q.length < s.cfg.queueCap then
              [if s.cfg.dev0.hasRead = true ∧ s.cfg.dev0.hasWrite = true ∧ s.cfg.dev0.hasPeek = true then 0x00#8
                else s.cfg.iftestFail0]
            else s.q.getLast?.toList }

/-- R143: `SELFTEST`. -/
def Obligations.SelftestDisablesChannelZeroAndQueuesTwoBytes : Prop :=
  decodeCommand 0xAA#8 = .selftest
    ∧ ∀ s : State, s.ramOk → ∃ t, exec .selftest s = .next t
      ∧ t = { s with ram := t.ram, trace := t.trace, q := t.q }
      ∧ (∀ j, (t.ramByte 0).getLsbD j = if j = 4 then true else (s.ramByte 0).getLsbD j)
      ∧ (∀ a, a ≠ 0 → t.ramByte a = s.ramByte a)
      ∧ t.trace = s.trace ++
          (if (s.ramByte 0).getLsbD 4 = false ∧ s.cfg.dev0.hasNotifier = true then [.devNotify .c0 .disable] else [])
      ∧ t.q = s.q ++ [0xFA#8, 0x55#8].take (s.cfg.queueCap - s.q.length)

/-- R145: `DUMP`: the 32 bytes in order, as many of the first as fit. -/
def Obligations.DumpQueuesTheRam : Prop :=
  decodeCommand 0xAC#8 = .dump
    ∧ ∀ s : State, exec .dump s = .next { s with
      q := s.q ++ ((List.range 32).map s.ramByte).take (s.cfg.queueCap - s.q.length) }

/-- R148: what the eight commands 0xA7 to 0xAE can change. -/
def Obligations.ChannelCommandsTouchOnlyTheDisableBitsTheQueueAndTheTrace : Prop :=
  ∀ (s t : State) (i : Instr), s.ramOk →
    i ∈ [Instr.dis1, .en1, .iftest1, .selftest, .iftest0, .dump, .dis0, .en0] → exec i s = .next t →
    t = { s with ram := t.ram, q := t.q, trace := t.trace }
      ∧ (∀ j, j ≠ 4 → j ≠ 5 → (t.ramByte 0).getLsbD j = (s.ramByte 0).getLsbD j)
      ∧ (∀ a, a ≠ 0 → t.ramByte a = s.ramByte a)
      ∧ ∃ l, t.trace = s.trace ++ l ∧ ∀ e ∈ l, ∃ c k, e = .devNotify c k

/-- R31: every instruction but the five that change the disable bits leaves every RAM byte as it was; the RAM's other writer is
the write service. -/
def Obligations.OtherInstructionsLeaveTheRam : Prop :=
  ∀ (s t : State) (i : Instr), i ∉ [Instr.dis0, .dis1, .en0, .en1, .selftest] → exec i s = .next t →
    ∀ a, t.ramByte a = s.ramByte a

/-! ### Virtual ports and lines -/

/-- R150: `RDINP`: the byte queued is the one before the vendor variant's exchange of bits 0 and 1. -/
def Obligations.RdinpQueuesTheInputPortAlone : Prop :=
  decodeCommand 0xC0#8 = .rdinp
    ∧ ∀ s : State, ∃ t, exec .rdinp s = .next t
      ∧ t = { s with
          q := if s.q.length < s.cfg.queueCap then [s.inport] else s.q.getLast?.toList
          inport := t.inport }
      ∧ (s.cfg.variantC0Rotate = false → t.inport = s.inport)
      ∧ (s.cfg.variantC0Rotate = true → t.inport.getLsbD 0 = s.inport.getLsbD 1 ∧ t.inport.getLsbD 1 = s.inport.getLsbD 0
          ∧ ∀ i, 2 ≤ i → t.inport.getLsbD i = s.inport.getLsbD i)

/-- R151, R152: the two nibble commands. -/
def Obligations.PollCommandsCaptureANibble : Prop :=
  (decodeCommand 0xC1#8 = .pollinlo ∧ decodeCommand 0xC2#8 = .pollinhi)
    ∧ ∀ s : State,
      (∃ n : Nibble, exec .pollinlo s = .next { s with stOverride := some n } ∧ ∀ i, i < 4 → n.getLsbD i = s.inport.getLsbD i)
        ∧ ∃ n : Nibble, exec .pollinhi s = .next { s with stOverride := some n }
          ∧ ∀ i, i < 4 → n.getLsbD i = s.inport.getLsbD (4 + i)

/-- R151, R152, R258: after `POLLINLO` or `POLLINHI` exactly one status read shows the nibble, the next one shows the real bits. -/
def Obligations.OverrideIsShownByExactlyOneStatusRead : Prop :=
  ∀ (s t u w : State) (i : Instr) (k : Nat), (i, k) ∈ [(Instr.pollinlo, 0), (.pollinhi, 4)] →
    exec i s = .next t → exec .rdstat t = .next u → exec .rdstat u = .next w →
    (∀ j, j < 4 → u.dout.getLsbD (4 + j) = s.inport.getLsbD (k + j))
      ∧ w.dout.getLsbD 4 = false ∧ w.dout.getLsbD 5 = s.aux ∧ w.dout.getLsbD 6 = false ∧ w.dout.getLsbD 7 = false
      ∧ (∀ j, j < 4 → w.dout.getLsbD j = u.dout.getLsbD j)

/-- R153: `RDOUTP`. -/
def Obligations.RdoutpMakesAPortReadPending : Prop :=
  decodeCommand 0xD0#8 = .rdoutp
    ∧ ∀ s : State, exec .rdoutp s = .next { s with rdOutport := true, ramRdIdx := none, ramWrIdx := none }

/-- R154 to R157: the four commands that arm a redirection. -/
def Obligations.ArmCommandsSetTheirArm : Prop :=
  (decodeCommand 0xD1#8 = .wroutp ∧ decodeCommand 0xD2#8 = .sim0 ∧ decodeCommand 0xD3#8 = .sim1
      ∧ decodeCommand 0xD4#8 = .wraux)
    ∧ ∀ s : State,
      exec .wroutp s = .next { s with armOutport := true }
        ∧ exec .sim0 s = .next { s with armSim0 := true }
        ∧ exec .sim1 s = .next { s with armSim1 := true, armSim0 := false }
        ∧ exec .wraux s = .next { s with armAux := true }

/-- R158, R159: the two A20 commands. -/
def Obligations.A20CommandsDriveBitOne : Prop :=
  (decodeCommand 0xDD#8 = .a20on ∧ decodeCommand 0xDF#8 = .a20off)
    ∧ ∀ (s : State) (b : Bool), ∃ t, exec (if b then .a20on else .a20off) s = .next t
      ∧ t = { s with outport := t.outport, trace := s.trace ++ [.a20Set b] }
      ∧ t.a20 = b ∧ (∀ i, i ≠ 1 → t.outport.getLsbD i = s.outport.getLsbD i)
      ∧ ∀ a, t.ramByte a = s.ramByte a

/-- R160: `PULSE`. -/
def Obligations.PulseRequestsAResetWhenBitZeroIsClear : Prop :=
  (∀ (m : BitVec 3) (r : Bool), decodeCommand (0xF#4 ++ m ++ BitVec.ofBool r : BitVec (4 + 3 + 1)) = .pulse m r)
    ∧ ∀ (s : State) (m : BitVec 3),
      exec (.pulse m false) s = .next { s with trace := s.trace ++ [.sysResetReq] } ∧ exec (.pulse m true) s = .next s

/-! ### Write services -/

/-- R176, R106: the forward of a data byte to a channel. -/
def Obligations.ForwardSendsTheInputBuffer : Prop :=
  ∀ (s : State) (c : Channel), s.pw = some (.ch c) →
    serviceWrite s = .next { s with
      pw := none, ibf := false
      trace := s.trace ++ if (match c with | .c0 => s.cfg.dev0.hasWrite | .c1 => s.cfg.dev1.hasWrite) = true
        then [.devSend c s.inbuf] else [] }

/-- R177, R103: the RAM write service: an index in range is stored, byte 0 notifies first, an index out of range stores
nothing. -/
def Obligations.RamWriteStoresAnInRangeIndex : Prop :=
  ∀ (s : State) (i : Fin 287), s.ramOk → s.pw = some (.ramwr i) → ∃ t, serviceWrite s = .next t
    ∧ t = { s with ram := t.ram, trace := t.trace, pw := none, ibf := false }
    ∧ (i.val ≤ 31 → t.ramByte i.val = s.inbuf ∧ ∀ a, a ≠ i.val → t.ramByte a = s.ramByte a)
    ∧ (31 < i.val → ∀ a, t.ramByte a = s.ramByte a)
    ∧ (i.val ≠ 0 → t.trace = s.trace)
    ∧ (i.val = 0 → t.trace = s.trace
        ++ (if (s.ramByte 0).getLsbD 4 ≠ s.inbuf.getLsbD 4 ∧ s.cfg.dev0.hasNotifier = true
            then [.devNotify .c0 (if s.inbuf.getLsbD 4 then .disable else .enableIrq)] else [])
        ++ (if (s.ramByte 0).getLsbD 5 ≠ s.inbuf.getLsbD 5 ∧ s.cfg.dev1.hasNotifier = true
            then [.devNotify .c1 (if s.inbuf.getLsbD 5 then .disable else .enableIrq)] else []))

/-- R178: the output port write service. -/
def Obligations.OutportWriteDrivesThePins : Prop :=
  ∀ s : State, s.pw = some .outportwr →
    serviceWrite s = .next { s with
      outport := s.inbuf, pw := none, ibf := false
      trace := s.trace ++ [.a20Set (s.inbuf.getLsbD 1)] ++ if s.inbuf.getLsbD 0 = false then [.sysResetReq] else [] }

/-- R179: the two simulation services. -/
def Obligations.SimulateFillsTheInjectionLatch : Prop :=
  ∀ s : State,
    (s.pw = some (.sim .c0) → serviceWrite s = .next { s with inj0 := some s.inbuf, pw := none, ibf := false })
      ∧ (s.pw = some (.sim .c1) → serviceWrite s = .next { s with inj1 := some s.inbuf, pw := none, ibf := false })

/-- R133: the service of any command ends the security accumulation without committing the sum. -/
def Obligations.CommandServiceEndsTheAccumulation : Prop :=
  ∀ s t : State, s.pw = some .command → serviceWrite s = .next t →
    t.secKey = s.secKey ∧ (decodeCommand s.cmd ≠ .pwload → t.secMode = false ∧ t.secSum = s.secSum)

/-! ### The Output Queue -/

/-- R111, R112, R113: the three operations of the queue. R112 defines `QPop` on a queue that is not empty; that the operation
answers `none` on an empty one is the model's form (log entry 24). -/
def Obligations.QueueOperations : Prop :=
  ∀ (s : State) (b : Byte),
    (s.q.length < s.cfg.queueCap → qPush b s = { s with q := s.q ++ [b] })
      ∧ (s.cfg.queueCap ≤ s.q.length → qPush b s = s)
      ∧ (s.q = [] → qPop s = none ∧ qSkipToLast s = s)
      ∧ (∀ rest, s.q = b :: rest → qPop s = some (b, { s with q := rest }))
      ∧ (∀ front, s.q = front ++ [b] → qSkipToLast s = { s with q := [b] })

/-! ### The Filler -/

/-- R190, R191, R192, R195: paths 1 to 3 of a fill, in strict priority: the value is the source's at fill time, the source is
consumed, AUX is cleared. -/
def Obligations.FillTakesTheFirstInternalSource : Prop :=
  ∀ s : State,
    (s.rdOutport = true → ∃ t, fill s = (.produced, t)
        ∧ t = { s with
            rdOutport := false, outbuf := s.outport, obf := true, aux := false, outport := t.outport, trace := t.trace })
      ∧ (∀ i, s.rdOutport = false → s.ramRdIdx = some i → ∃ t, fill s = (.produced, t)
        ∧ t = { s with
            ramRdIdx := none, outbuf := s.ramByte i.val, obf := true, aux := false, outport := t.outport, trace := t.trace })
      ∧ (∀ b rest, s.rdOutport = false → s.ramRdIdx = none → s.q = b :: rest → ∃ t, fill s = (.produced, t)
        ∧ t = { s with q := rest, outbuf := b, obf := true, aux := false, outport := t.outport, trace := t.trace })

/-- R183, R190, R193: path 4 of a fill. With no source of paths 1 to 3, the first channel of `POLL_ORDER` that has a byte gives
it, the injected one before the device's; with no channel either, nothing happens. -/
def Obligations.FillPollsTheChannelsInOrder : Prop :=
  ∀ s : State, s.rdOutport = false → s.ramRdIdx = none → s.q = [] →
    ((chanHasByte s .c0 = false ∧ chanHasByte s .c1 = false) → fill s = (.nothing, s))
      ∧ (chanHasByte s .c1 = true → (chanHasByte s .c0 = false ∨ s.cfg.pollOrder = .oneFirst) → ∃ t, fill s = (.produced, t)
        ∧ ((∃ b, s.inj1 = some b ∧ t = { s with
              inj1 := none, outbuf := b, obf := true, aux := true, outport := t.outport, trace := t.trace })
          ∨ (s.inj1 = none ∧ ∃ b rest, s.offers1 = b :: rest ∧ t = { s with
              offers1 := rest, outbuf := b, obf := true, aux := true, outport := t.outport, trace := t.trace })))
      ∧ (chanHasByte s .c0 = true → (chanHasByte s .c1 = false ∨ s.cfg.pollOrder = .zeroFirst) →
        (s.ramByte 0).getLsbD 6 = false → ∃ t, fill s = (.produced, t)
        ∧ ((∃ b, s.inj0 = some b ∧ t = { s with
              inj0 := none, outbuf := b, obf := true, aux := false, outport := t.outport, trace := t.trace })
          ∨ (s.inj0 = none ∧ ∃ b rest, s.offers0 = b :: rest ∧ t = { s with
              offers0 := rest, outbuf := b, obf := true, aux := false, outport := t.outport, trace := t.trace })))

/-- R193, R194, R155: a channel-0 byte under translation, the injected one or else the device's next one: 0xF0 arms the escape
and gives nothing; any other byte gives its table entry, with bit 7 set when the escape was armed. -/
def Obligations.TranslationIsEscapeAware : Prop :=
  ∀ (s : State) (b : Byte), s.rdOutport = false → s.ramRdIdx = none → s.q = [] → chanHasByte s .c0 = true →
    (chanHasByte s .c1 = false ∨ s.cfg.pollOrder = .zeroFirst) → (s.ramByte 0).getLsbD 6 = true →
    (s.inj0 = some b ∨ s.inj0 = none ∧ s.offers0.head? = some b) →
    (b = 0xF0#8 → fill s = (.swallowed, { s with
          inj0 := none, offers0 := if s.inj0 = none then s.offers0.tail else s.offers0, xlatEsc := true }))
      ∧ (b ≠ 0xF0#8 → ∃ t, fill s = (.produced, t)
        ∧ t = { s with
            inj0 := none, offers0 := if s.inj0 = none then s.offers0.tail else s.offers0, xlatEsc := false
            outbuf := t.outbuf, obf := true, aux := false, outport := t.outport, trace := t.trace }
        ∧ (∀ i, i < 7 → t.outbuf.getLsbD i = (s.cfg.xlat[b.toNat]'b.isLt).getLsbD i)
        ∧ t.outbuf.getLsbD 7 = ((s.cfg.xlat[b.toNat]'b.isLt).getLsbD 7 || s.xlatEsc))

/-- R197, R224, R57: after a produced fill the owning channel's line alone is high, and only if that channel's interrupts are
enabled; the other bits of the output port are unchanged; the events are the two lowerings and the raising. -/
def Obligations.ProducedFillArbitratesTheLines : Prop :=
  ∀ s t : State, fill s = (.produced, t) →
    t.irq .irq1 = (!t.aux && (s.ramByte 0).getLsbD 0) ∧ t.irq .irq12 = (t.aux && (s.ramByte 0).getLsbD 1)
      ∧ ¬ (t.irq .irq1 = true ∧ t.irq .irq12 = true)
      ∧ (∀ i, i ≠ 4 → i ≠ 5 → t.outport.getLsbD i = s.outport.getLsbD i)
      ∧ t.trace = s.trace ++ [.irqLower .irq1, .irqLower .irq12]
          ++ (if t.irq .irq1 = true then [.irqRaise .irq1] else [])
          ++ (if t.irq .irq12 = true then [.irqRaise .irq12] else [])

/-- R199: with channel 0 first in the poll order and both channels holding a byte, the byte produced is channel 0's (the
injected one, or else the device's next one; as translated when translation is on), it is taken from channel 0, line 1 is
asserted, never line 12, and channel 1's byte is not consumed. -/
def Obligations.ChannelZeroHasPriority : Prop :=
  ∀ (s : State) (b : Byte), s.rdOutport = false → s.ramRdIdx = none → s.q = [] → s.cfg.pollOrder = .zeroFirst →
    chanHasByte s .c0 = true → chanHasByte s .c1 = true → (s.ramByte 0).getLsbD 0 = true →
    (s.inj0 = some b ∨ s.inj0 = none ∧ s.offers0.head? = some b) → ((s.ramByte 0).getLsbD 6 = true → b ≠ 0xF0#8) →
    ∃ t, fill s = (.produced, t) ∧ t.aux = false ∧ t.irq .irq1 = true ∧ t.irq .irq12 = false
      ∧ ((s.ramByte 0).getLsbD 6 = false → t.outbuf = b)
      ∧ ((s.ramByte 0).getLsbD 6 = true →
          t.outbuf = if s.xlatEsc = true then (s.cfg.xlat[b.toNat]'b.isLt) ||| 0x80#8 else s.cfg.xlat[b.toNat]'b.isLt)
      ∧ t.inj0 = none ∧ t.offers0 = (if s.inj0 = none then s.offers0.tail else s.offers0)
      ∧ t.inj1 = s.inj1 ∧ t.offers1 = s.offers1

/-- R198: a fill that produces nothing changes nothing; one that swallows a prefix changes the escape and takes one byte of
channel 0. -/
def Obligations.UnproductiveFillsChangeNoRegister : Prop :=
  ∀ s t : State,
    (fill s = (.nothing, t) → t = s)
      ∧ (fill s = (.swallowed, t) →
        (s.inj0 = some 0xF0#8 ∧ t = { s with inj0 := none, xlatEsc := true })
          ∨ (s.inj0 = none ∧ ∃ rest, s.offers0 = 0xF0#8 :: rest ∧ t = { s with offers0 := rest, xlatEsc := true }))

/-- R68, R123, R192: a RAM read gives the byte as it stands at the fill. A serviced RAM write of index `i`, then an `RDRAM` of
index `i` latched and serviced, then a fill give the host the byte written and leave it in the RAM. And an enable command or
`SELFTEST` serviced while a read of index 0 is pending is seen by the fill. -/
def Obligations.RamWriteThenPendingReadGivesTheByte : Prop :=
  (∀ (s t t1 u : State) (i : Fin 287) (c : Byte) (x : Bool) (n : BitVec 5), s.ramOk → s.pw = some (.ramwr i) → i.val ≤ 31 →
      serviceWrite s = .next t → decodeCommand c = .rdram x n → n.toNat + (t.ramByte 0x0B).toNat = i.val →
      exec (.wrcmd c) t = .next t1 → serviceWrite t1 = .next u →
      ∃ v, fill u = (.produced, v) ∧ v.outbuf = s.inbuf ∧ v.ramByte i.val = s.inbuf)
    ∧ ∀ (s t : State) (bit : Nat) (b : Bool), s.ramOk → s.rdOutport = false → s.ramRdIdx = some 0 → s.pw = some .command →
      (decodeCommand s.cmd, bit, b) ∈
        [(Instr.dis0, 4, true), (.dis1, 5, true), (.en0, 4, false), (.en1, 5, false), (.selftest, 4, true)] →
      serviceWrite s = .next t →
      ∃ u, fill t = (.produced, u) ∧ (∀ j, u.outbuf.getLsbD j = if j = bit then b else (s.ramByte 0).getLsbD j)
        ∧ u.ramByte 0 = u.outbuf

/-! ### The engine -/

/-- R171, R172, R173: with nothing pending, or nothing affordable, a `TICK` only counts: an idle pass zeroes the budget, a pass with
something pending keeps it, however small; 11 bit-clocks do not pay for a latched write. -/
def Obligations.TickWithoutServiceOnlyCounts : Prop :=
  ∀ (s : State) (n : Nat),
    ((s.pw = none ∧ (s.obf = true ∨ hasSource s = false)) →
        tick n s = .next { s with acc := (s.acc + n) % s.cfg.clkPerBit, budget := 0 })
      ∧ (s.budget + (s.acc + n) / s.cfg.clkPerBit < 11 → (s.pw ≠ none ∨ (s.obf = false ∧ hasSource s = true)) →
        tick n s = .next { s with
          acc := (s.acc + n) % s.cfg.clkPerBit, budget := s.budget + (s.acc + n) / s.cfg.clkPerBit })
      ∧ (s.budget + (s.acc + n) / s.cfg.clkPerBit ≤ 11 → s.pw ≠ none → (s.obf = true ∨ hasSource s = false) →
        tick n s = .next { s with
          acc := (s.acc + n) % s.cfg.clkPerBit, budget := s.budget + (s.acc + n) / s.cfg.clkPerBit })

/-- R173, R174: with a read ready and affordable, a `TICK` that has no write to service, or cannot pay for one as well, makes
exactly the fill; a fill that swallows a translation prefix is not paid for and is not tried again in the pass. -/
def Obligations.TickServesTheReadFirst : Prop :=
  ∀ (s u : State) (n b : Nat), b = s.budget + (s.acc + n) / s.cfg.clkPerBit → s.obf = false → 11 ≤ b →
    (fill (accrue n s) = (.produced, u) → (b < 23 ∨ s.pw = none) → tick n s = .next { u with budget := b - 11 })
      ∧ (fill (accrue n s) = (.swallowed, u) → (b < 12 ∨ s.pw = none) → tick n s = .next { u with budget := b })

/-- R171, R174, R56: the budget after a `TICK` with something pending is what it was, plus the bit-clocks of the accrual, less 11
for a produced fill and 12 for a serviced write, of each at most one. -/
def Obligations.TickSpendsWholeCosts : Prop :=
  ∀ (s t : State) (n : Nat), (s.pw ≠ none ∨ (s.obf = false ∧ hasSource s = true)) → tick n s = .next t →
    t.acc = (s.acc + n) % s.cfg.clkPerBit
      ∧ t.budget + (if s.obf = false ∧ t.obf = true then 11 else 0) + (if s.pw ≠ none ∧ t.pw = none then 12 else 0)
        = s.budget + (s.acc + n) / s.cfg.clkPerBit

/-- R174(d), R256: a byte the host has not read stays as it is across any `TICK`, and no device byte is taken. -/
def Obligations.UnreadByteIsNeverOverwritten : Prop :=
  ∀ (s t : State) (n : Nat), s.obf = true → tick n s = .next t →
    t.obf = true ∧ t.outbuf = s.outbuf ∧ t.aux = s.aux ∧ t.offers0 = s.offers0 ∧ t.offers1 = s.offers1
      ∧ t.xlatEsc = s.xlatEsc

/-- R214: what each operation can change. `dout`, the trace and the environment's list are the model's. -/
def Obligations.OperationsChangeOnlyTheirFields : Prop :=
  ∀ s t : State,
    (exec .rddata s = .next t →
        t = { s with
          obf := t.obf, aux := t.aux, hideObf := t.hideObf, outport := t.outport, dout := t.dout, trace := t.trace }
        ∧ ∀ i, i ≠ 4 → i ≠ 5 → t.outport.getLsbD i = s.outport.getLsbD i)
      ∧ (∀ v, exec (.wrdata v) s = .next t →
        t = { s with
          inbuf := t.inbuf, cmdflag := t.cmdflag, ibf := t.ibf, pw := t.pw, armOutport := t.armOutport
          armSim0 := t.armSim0, armSim1 := t.armSim1, armAux := t.armAux, ramWrIdx := t.ramWrIdx })
      ∧ (exec .rdstat s = .next t → t = { s with stOverride := t.stOverride, dout := t.dout })
      ∧ (∀ v, exec (.wrcmd v) s = .next t → t = { s with cmd := t.cmd, cmdflag := t.cmdflag, ibf := t.ibf, pw := t.pw })
      ∧ (∀ n, tick n s = .next t →
        t.inbuf = s.inbuf ∧ t.cmd = s.cmd ∧ t.cmdflag = s.cmdflag ∧ t.hideObf = s.hideObf ∧ t.dout = s.dout
          ∧ t.inputs = s.inputs ∧ t.cfg = s.cfg)

/-- R184: clock conservation, over any operations of any agents between the `TICK`s: from an empty budget, 11 bit-clocks are
paid for every produced fill and 12 for every serviced write out of the bit-clocks of the time given, so that both source
bounds hold; and neither count decreases as more operations are carried out. That a run is the first `k` steps over the list
of operations in the state is the model's form (log entry 4). -/
def Obligations.ClockConservation : Prop :=
  ∀ (s : State) (k : Nat), s.cfg.ok → s.acc = 0 → s.budget = 0 →
    11 * (services k s).1 + 12 * (services k s).2 ≤ masterCycles (s.inputs.take k) / s.cfg.clkPerBit
      ∧ (services k s).1 ≤ masterCycles (s.inputs.take k) / s.cfg.clkPerBit / 11
      ∧ (services k s).2 ≤ masterCycles (s.inputs.take k) / s.cfg.clkPerBit / 12
      ∧ (services k s).1 ≤ (services (k + 1) s).1 ∧ (services k s).2 ≤ (services (k + 1) s).2

/-! ### Devices and parameters -/

/-- R98, R108: a device influences the block only through the bytes it offers. The lists of offered bytes are the model's form
of `avail[c]` and `DevTake(c)` (log entry 16). -/
def Obligations.DevicesChangeOnlyTheirOffers : Prop :=
  ∀ (s : State) (rest : List Op), s.standard →
    (∀ b, s.inputs = .offer .c0 b :: rest → step s = .next { s with inputs := rest, offers0 := s.offers0 ++ [b] })
      ∧ (∀ b, s.inputs = .offer .c1 b :: rest → step s = .next { s with inputs := rest, offers1 := s.offers1 ++ [b] })
      ∧ (∀ bs, s.inputs = .setOffers .c0 bs :: rest → step s = .next { s with inputs := rest, offers0 := bs })
      ∧ (∀ bs, s.inputs = .setOffers .c1 bs :: rest → step s = .next { s with inputs := rest, offers1 := bs })

/-- R48, R101: no operation changes a parameter. That the parameters stand in the state is the model's choice (log entry 10). -/
def Obligations.ParametersNeverChange : Prop :=
  ∀ s t : State, step s = .next t → t.cfg = s.cfg

/-! ### Reset -/

/-- R58, R240, R243, R244: a `RESET` of a running machine: every state variable at its reset value, the notifications by comparison
with the live configuration byte, then the lines and A20; the parameters, the devices and the operations still to come stay.
The list of operations to come, the parameters in the state and the lists of offered bytes are the model's forms (log entries
4, 10, 16). -/
def Obligations.ResetRestoresEveryVariable : Prop :=
  ∀ (s : State) (rest : List Op), s.standard → s.inputs = .reset :: rest → ∃ t, step s = .next t
    ∧ (t.outbuf = 0x00#8 ∧ t.inbuf = 0x00#8 ∧ t.cmd = 0x00#8 ∧ t.obf = false ∧ t.ibf = false ∧ t.cmdflag = false
      ∧ t.aux = false ∧ t.stOverride = none ∧ t.hideObf = false ∧ t.outport = s.cfg.outportReset
      ∧ t.inport = s.cfg.inportReset ∧ t.pw = none ∧ t.armOutport = false ∧ t.armSim0 = false ∧ t.armSim1 = false
      ∧ t.armAux = false ∧ t.rdOutport = false ∧ t.ramRdIdx = none ∧ t.ramWrIdx = none ∧ t.secMode = false
      ∧ t.secSum = 0x00#8 ∧ t.secKey = 0x00#8 ∧ t.xlatEsc = false ∧ t.inj0 = none ∧ t.inj1 = none ∧ t.q = []
      ∧ t.acc = 0 ∧ t.budget = 0)
    ∧ t.ramByte 0 = s.cfg.cfg0Reset ∧ (∀ a, a ≠ 0 → t.ramByte a = 0x00#8)
    ∧ t.cfg = s.cfg ∧ t.offers0 = s.offers0 ∧ t.offers1 = s.offers1 ∧ t.inputs = rest
    ∧ t.trace = s.trace
        ++ (if (s.ramByte 0).getLsbD 4 ≠ s.cfg.cfg0Reset.getLsbD 4 ∧ s.cfg.dev0.hasNotifier = true
            then [.devNotify .c0 (if s.cfg.cfg0Reset.getLsbD 4 then .disable else .enableIrq)] else [])
        ++ (if (s.ramByte 0).getLsbD 5 ≠ s.cfg.cfg0Reset.getLsbD 5 ∧ s.cfg.dev1.hasNotifier = true
            then [.devNotify .c1 (if s.cfg.cfg0Reset.getLsbD 5 then .disable else .enableIrq)] else [])
        ++ [if s.cfg.outportReset.getLsbD 4 then .irqRaise .irq1 else .irqLower .irq1,
            if s.cfg.outportReset.getLsbD 5 then .irqRaise .irq12 else .irqLower .irq12,
            .a20Set (s.cfg.outportReset.getLsbD 1)]

/-- R58, R240, R243: the state after the first `RESET`, in every configuration: the configuration byte before it counts as 0x00.
That `State.reset` is this state in the configuration `Config.board`, the value of `dout`, the empty offers and the empty list
of operations are the model's choices (log entries 1, 3, 4, 16). -/
def Obligations.PowerUpStateIsTheResetTable : Prop :=
  ∀ cfg : Config,
    State.powerUp cfg =
      { outbuf := 0x00#8, inbuf := 0x00#8, cmd := 0x00#8, obf := false, ibf := false, cmdflag := false, aux := false
        stOverride := none, hideObf := false, ram := [], outport := cfg.outportReset, inport := cfg.inportReset, pw := none
        armOutport := false, armSim0 := false, armSim1 := false, armAux := false, rdOutport := false, ramRdIdx := none
        ramWrIdx := none, secMode := false, secSum := 0x00#8, secKey := 0x00#8, xlatEsc := false, inj0 := none
        inj1 := none, q := [], acc := 0, budget := 0, dout := 0x00#8, trace := (State.powerUp cfg).trace
        offers0 := [], offers1 := [], inputs := [], cfg := cfg }
      ∧ (State.powerUp cfg).ramByte 0 = cfg.cfg0Reset ∧ (∀ a, a ≠ 0 → (State.powerUp cfg).ramByte a = 0x00#8)
      ∧ (State.powerUp cfg).trace =
          (if cfg.cfg0Reset.getLsbD 4 = true ∧ cfg.dev0.hasNotifier = true then [.devNotify .c0 .disable] else [])
          ++ (if cfg.cfg0Reset.getLsbD 5 = true ∧ cfg.dev1.hasNotifier = true then [.devNotify .c1 .disable] else [])
          ++ [if cfg.outportReset.getLsbD 4 then .irqRaise .irq1 else .irqLower .irq1,
              if cfg.outportReset.getLsbD 5 then .irqRaise .irq12 else .irqLower .irq12,
              .a20Set (cfg.outportReset.getLsbD 1)]

/-! ### Invariants -/

/-- R53 to R56, R29: every step keeps the invariant of the state. Its clauses on the form of the RAM and on `hideObf` are the
model's (log entries 11, 14). -/
def Obligations.StepKeepsTheStateInvariant : Prop :=
  ∀ s t : State, s.inv → step s = .next t → t.inv

/-- R53 to R56, R58: the state after the first `RESET` meets the invariant, in every configuration the spec allows and in the one
the model takes. -/
def Obligations.ResetMeetsTheStateInvariant : Prop :=
  State.reset.inv ∧ ∀ cfg : Config, cfg.ok → (State.powerUp cfg).inv

/-! ### The engine in a step -/

/-- R11, R171: when the next operation is a `TICK`, the step is that `TICK` with the operation taken from the environment's list
and nothing else around it. That the operations to come stand in a list is the model's form of R11 (log entry 4). -/
def Obligations.StepRunsTheNextTick : Prop :=
  ∀ (s : State) (n : Nat) (rest : List Op), s.standard → s.inputs = .tick n :: rest →
    step s = tick n { s with inputs := rest }

/-- R173, R175: a `TICK` that can pay for the latched write, whatever its kind, and that services no read carries out its service
and spends 12 bit-clocks: because the output buffer is full; because nothing waits and the budget does not reach 23; or because
the fill tried before it swallows a translation prefix. -/
def Obligations.TickServicesTheLatchedWrite : Prop :=
  ∀ (s : State) (n b : Nat) (k : PendingWrite), b = s.budget + (s.acc + n) / s.cfg.clkPerBit → s.pw = some k → 12 ≤ b →
    ((s.obf = true ∨ (hasSource s = false ∧ b < 23)) →
        ∃ t, serviceWrite (accrue n s) = .next t ∧ tick n s = .next { t with budget := b - 12 })
      ∧ (∀ u, s.obf = false → fill (accrue n s) = (.swallowed, u) →
        ∃ t, serviceWrite u = .next t ∧ tick n s = .next { t with budget := b - 12 })

/-- R173, R174: a `TICK` that can pay for both services makes both in one pass: the fill, then the latched write; or, with nothing
to fill before, the write, then the fill the write made available, if there is one. -/
def Obligations.TickServesBothDirections : Prop :=
  ∀ (s : State) (n b : Nat) (k : PendingWrite), b = s.budget + (s.acc + n) / s.cfg.clkPerBit → s.obf = false →
    s.pw = some k → 23 ≤ b →
    (∀ u, fill (accrue n s) = (.produced, u) →
        ∃ t, serviceWrite { u with budget := b - 11 } = .next t ∧ tick n s = .next { t with budget := b - 23 })
      ∧ (∀ t u, hasSource s = false → serviceWrite (accrue n s) = .next t →
        (fill { t with budget := b - 12 } = (.produced, u) → tick n s = .next { u with budget := b - 23 })
          ∧ (fill { t with budget := b - 12 } = (.swallowed, u) → tick n s = .next { u with budget := b - 12 })
          ∧ (fill { t with budget := b - 12 } = (.nothing, u) → tick n s = .next { t with budget := b - 12 }))
end

