-- ==== Sys2Proof/Laws/Memory.lean ====
section
/-! SUPPORT. The configuration RAM: read after write, and the canonical form. -/

namespace Sys2Proof.Machine

/-- Reading an index below every listed one finds it unlisted. -/
theorem Memory.read_below (cfg0 : Byte) : ∀ (m : Memory) (lo a : Nat), Memory.wfFrom cfg0 lo m = true → a < lo →
    Memory.read cfg0 m a = ramUnlisted cfg0 a
  | [], _, _, _, _ => rfl
  | (k, v) :: m, lo, a, h, ha => by
    simp only [Memory.wfFrom, Bool.and_eq_true, decide_eq_true_eq] at h
    have hk : k ≠ a := by omega
    simp only [Memory.read, hk, if_false]
    exact Memory.read_below cfg0 m (k + 1) a h.2 (by omega)

/-- R13: a read after a write to the same index answers the value written. -/
theorem Memory.read_write_same (cfg0 : Byte) (a : Nat) (v : Byte) : ∀ (m : Memory) (lo : Nat),
    Memory.wfFrom cfg0 lo m = true → Memory.read cfg0 (Memory.write cfg0 m a v) a = v
  | [], _, _ => by
    by_cases hv : v = ramUnlisted cfg0 a <;> simp [Memory.write, Memory.read, hv]
  | (k, w) :: m, lo, h => by
    have hm : Memory.wfFrom cfg0 (k + 1) m = true := by
      simp only [Memory.wfFrom, Bool.and_eq_true] at h
      exact h.2
    by_cases h1 : a < k
    · by_cases hv : v = ramUnlisted cfg0 a
      · have hk : k ≠ a := by omega
        simp only [Memory.write, h1, if_true, if_pos hv, Memory.read, hk, if_false]
        rw [Memory.read_below cfg0 m (k + 1) a hm (by omega), hv]
      · simp [Memory.write, h1, hv, Memory.read]
    · by_cases h2 : a = k
      · subst h2
        by_cases hv : v = ramUnlisted cfg0 a
        · simp only [Memory.write, h1, if_false, if_true, if_pos hv]
          rw [Memory.read_below cfg0 m (a + 1) a hm (by omega), hv]
        · simp [Memory.write, hv, Memory.read]
      · have hk : k ≠ a := fun e => h2 e.symm
        simp only [Memory.write, h1, h2, if_false, Memory.read, hk]
        exact Memory.read_write_same cfg0 a v m (k + 1) hm

/-- R13: a write leaves every other index alone. -/
theorem Memory.read_write_other (cfg0 : Byte) (a b : Nat) (v : Byte) (hab : b ≠ a) : ∀ (m : Memory) (lo : Nat),
    Memory.wfFrom cfg0 lo m = true → Memory.read cfg0 (Memory.write cfg0 m a v) b = Memory.read cfg0 m b
  | [], _, _ => by
    have hab' : a ≠ b := fun e => hab e.symm
    by_cases hv : v = ramUnlisted cfg0 a <;> simp [Memory.write, Memory.read, hv, hab']
  | (k, w) :: m, lo, h => by
    have hab' : a ≠ b := fun e => hab e.symm
    have hm : Memory.wfFrom cfg0 (k + 1) m = true := by
      simp only [Memory.wfFrom, Bool.and_eq_true] at h
      exact h.2
    by_cases h1 : a < k
    · by_cases hv : v = ramUnlisted cfg0 a
      · simp [Memory.write, h1, hv]
      · simp [Memory.write, h1, hv, Memory.read, hab']
    · by_cases h2 : a = k
      · subst h2
        by_cases hv : v = ramUnlisted cfg0 a
        · simp [Memory.write, hv, Memory.read, hab']
        · simp [Memory.write, hv, Memory.read, hab']
      · by_cases hk : k = b
        · subst hk
          simp [Memory.write, h1, h2, Memory.read]
        · simp only [Memory.write, h1, h2, if_false, Memory.read, hk]
          exact Memory.read_write_other cfg0 a b v hab m (k + 1) hm

/-- A canonical list stays canonical from any lower bound below its own. -/
theorem Memory.wfFrom_mono (cfg0 : Byte) (m : Memory) {lo lo' : Nat} (h : Memory.wfFrom cfg0 lo m = true) (hl : lo' ≤ lo) :
    Memory.wfFrom cfg0 lo' m = true := by
  cases m with
  | nil => rfl
  | cons c m =>
    simp only [Memory.wfFrom, Bool.and_eq_true, decide_eq_true_eq] at h ⊢
    exact ⟨⟨⟨by omega, h.1.1.2⟩, h.1.2⟩, h.2⟩

/-- A write inside the RAM keeps the canonical form from a lower bound it does not pass. -/
theorem Memory.write_wfFrom (cfg0 : Byte) (a : Nat) (v : Byte) (ha : a < ramSize) : ∀ (m : Memory) (lo : Nat),
    Memory.wfFrom cfg0 lo m = true → lo ≤ a → Memory.wfFrom cfg0 lo (Memory.write cfg0 m a v) = true
  | [], lo, _, hl => by
    by_cases hv : v = ramUnlisted cfg0 a
    · simp [Memory.write, hv, Memory.wfFrom]
    · simp [Memory.write, hv, Memory.wfFrom, hl, ha]
  | (k, w) :: m, lo, h, hl => by
    have h' := h
    simp only [Memory.wfFrom, Bool.and_eq_true, decide_eq_true_eq] at h'
    obtain ⟨⟨⟨hk, hr⟩, hw⟩, hm⟩ := h'
    by_cases h1 : a < k
    · by_cases hv : v = ramUnlisted cfg0 a
      · simpa [Memory.write, h1, hv] using h
      · simp only [Memory.write, h1, if_true, if_neg hv, Memory.wfFrom, Bool.and_eq_true, decide_eq_true_eq]
        exact ⟨⟨⟨hl, ha⟩, hv⟩, ⟨⟨by omega, hr⟩, hw⟩, hm⟩
    · by_cases h2 : a = k
      · subst h2
        by_cases hv : v = ramUnlisted cfg0 a
        · simp only [Memory.write, h1, if_false, if_true, if_pos hv]
          exact Memory.wfFrom_mono cfg0 m hm (by omega)
        · simp only [Memory.write, h1, if_false, if_true, if_neg hv, Memory.wfFrom, Bool.and_eq_true, decide_eq_true_eq]
          exact ⟨⟨⟨hl, ha⟩, hv⟩, hm⟩
      · simp only [Memory.write, h1, h2, if_false, Memory.wfFrom, Bool.and_eq_true, decide_eq_true_eq]
        exact ⟨⟨⟨hk, hr⟩, hw⟩, Memory.write_wfFrom cfg0 a v ha m (k + 1) hm (by omega)⟩

/-- A write inside the RAM keeps the canonical form. -/
theorem Memory.write_wf (cfg0 : Byte) (m : Memory) (a : Nat) (v : Byte) (ha : a < ramSize) (h : Memory.wf cfg0 m = true) :
    Memory.wf cfg0 (Memory.write cfg0 m a v) = true :=
  Memory.write_wfFrom cfg0 a v ha m 0 h (Nat.zero_le a)

/-- The RAM after a reset, which lists nothing, is canonical. -/
@[simp] theorem Memory.wf_nil (cfg0 : Byte) : Memory.wf cfg0 [] = true := rfl

/-- R58: what the RAM reads as after a reset. -/
@[simp] theorem Memory.read_nil (cfg0 : Byte) (a : Nat) : Memory.read cfg0 [] a = ramUnlisted cfg0 a := rfl

/-- The canonical form makes equal contents equal data, one list at a time: two canonical lists that read alike at every
index are the same list. -/
theorem Memory.ext_read (cfg0 : Byte) : ∀ (m n : Memory) (lo : Nat), Memory.wfFrom cfg0 lo m = true →
    Memory.wfFrom cfg0 lo n = true → (∀ a, Memory.read cfg0 m a = Memory.read cfg0 n a) → m = n
  | [], [], _, _, _, _ => rfl
  | [], (k, v) :: n, lo, _, hn, h => by
    simp only [Memory.wfFrom, Bool.and_eq_true, decide_eq_true_eq] at hn
    have := h k
    simp only [Memory.read, if_true] at this
    exact absurd this.symm hn.1.2
  | (k, v) :: m, [], lo, hm, _, h => by
    simp only [Memory.wfFrom, Bool.and_eq_true, decide_eq_true_eq] at hm
    have := h k
    simp only [Memory.read, if_true] at this
    exact absurd this hm.1.2
  | (k, v) :: m, (l, w) :: n, lo, hm, hn, h => by
    have hm' := hm
    have hn' := hn
    simp only [Memory.wfFrom, Bool.and_eq_true, decide_eq_true_eq] at hm' hn'
    have hkl : k = l := by
      rcases Nat.lt_trichotomy k l with hlt | heq | hgt
      · have h1 := h k
        have hne : l ≠ k := by omega
        simp only [Memory.read, if_true, hne, if_false] at h1
        rw [Memory.read_below cfg0 n (l + 1) k hn'.2 (by omega)] at h1
        exact absurd h1 hm'.1.2
      · exact heq
      · have h1 := h l
        have hne : k ≠ l := by omega
        simp only [Memory.read, if_true, hne, if_false] at h1
        rw [Memory.read_below cfg0 m (k + 1) l hm'.2 (by omega)] at h1
        exact absurd h1.symm hn'.1.2
    subst hkl
    have hv : v = w := by
      have h1 := h k
      simpa only [Memory.read, if_true] using h1
    subst hv
    have hrest : m = n := by
      apply Memory.ext_read cfg0 m n (k + 1) hm'.2 hn'.2
      intro a
      by_cases ha : k = a
      · subst ha
        rw [Memory.read_below cfg0 m (k + 1) k hm'.2 (by omega), Memory.read_below cfg0 n (k + 1) k hn'.2 (by omega)]
      · simpa only [Memory.read, ha, if_false] using h a
    rw [hrest]

end Sys2Proof.Machine
end

