-- ==== Sys2Proof/Laws/State.lean ====
section
/-! SUPPORT. What each named update of the state leaves in each field, and what the accessors read after it: every lemma is
true by unfolding, so that no later proof unfolds an update. -/

namespace Sys2Proof.Machine

@[simp] theorem State.emit_outbuf (s : State) (e : Event) : (s.emit e).outbuf = s.outbuf := rfl
@[simp] theorem State.emit_inbuf (s : State) (e : Event) : (s.emit e).inbuf = s.inbuf := rfl
@[simp] theorem State.emit_cmd (s : State) (e : Event) : (s.emit e).cmd = s.cmd := rfl
@[simp] theorem State.emit_obf (s : State) (e : Event) : (s.emit e).obf = s.obf := rfl
@[simp] theorem State.emit_ibf (s : State) (e : Event) : (s.emit e).ibf = s.ibf := rfl
@[simp] theorem State.emit_cmdflag (s : State) (e : Event) : (s.emit e).cmdflag = s.cmdflag := rfl
@[simp] theorem State.emit_aux (s : State) (e : Event) : (s.emit e).aux = s.aux := rfl
@[simp] theorem State.emit_stOverride (s : State) (e : Event) : (s.emit e).stOverride = s.stOverride := rfl
@[simp] theorem State.emit_hideObf (s : State) (e : Event) : (s.emit e).hideObf = s.hideObf := rfl
@[simp] theorem State.emit_ram (s : State) (e : Event) : (s.emit e).ram = s.ram := rfl
@[simp] theorem State.emit_outport (s : State) (e : Event) : (s.emit e).outport = s.outport := rfl
@[simp] theorem State.emit_inport (s : State) (e : Event) : (s.emit e).inport = s.inport := rfl
@[simp] theorem State.emit_pw (s : State) (e : Event) : (s.emit e).pw = s.pw := rfl
@[simp] theorem State.emit_armOutport (s : State) (e : Event) : (s.emit e).armOutport = s.armOutport := rfl
@[simp] theorem State.emit_armSim0 (s : State) (e : Event) : (s.emit e).armSim0 = s.armSim0 := rfl
@[simp] theorem State.emit_armSim1 (s : State) (e : Event) : (s.emit e).armSim1 = s.armSim1 := rfl
@[simp] theorem State.emit_armAux (s : State) (e : Event) : (s.emit e).armAux = s.armAux := rfl
@[simp] theorem State.emit_rdOutport (s : State) (e : Event) : (s.emit e).rdOutport = s.rdOutport := rfl
@[simp] theorem State.emit_ramRdIdx (s : State) (e : Event) : (s.emit e).ramRdIdx = s.ramRdIdx := rfl
@[simp] theorem State.emit_ramWrIdx (s : State) (e : Event) : (s.emit e).ramWrIdx = s.ramWrIdx := rfl
@[simp] theorem State.emit_secMode (s : State) (e : Event) : (s.emit e).secMode = s.secMode := rfl
@[simp] theorem State.emit_secSum (s : State) (e : Event) : (s.emit e).secSum = s.secSum := rfl
@[simp] theorem State.emit_secKey (s : State) (e : Event) : (s.emit e).secKey = s.secKey := rfl
@[simp] theorem State.emit_xlatEsc (s : State) (e : Event) : (s.emit e).xlatEsc = s.xlatEsc := rfl
@[simp] theorem State.emit_inj0 (s : State) (e : Event) : (s.emit e).inj0 = s.inj0 := rfl
@[simp] theorem State.emit_inj1 (s : State) (e : Event) : (s.emit e).inj1 = s.inj1 := rfl
@[simp] theorem State.emit_q (s : State) (e : Event) : (s.emit e).q = s.q := rfl
@[simp] theorem State.emit_acc (s : State) (e : Event) : (s.emit e).acc = s.acc := rfl
@[simp] theorem State.emit_budget (s : State) (e : Event) : (s.emit e).budget = s.budget := rfl
@[simp] theorem State.emit_dout (s : State) (e : Event) : (s.emit e).dout = s.dout := rfl
@[simp] theorem State.emit_trace (s : State) (e : Event) : (s.emit e).trace = s.trace ++ [e] := rfl
@[simp] theorem State.emit_offers0 (s : State) (e : Event) : (s.emit e).offers0 = s.offers0 := rfl
@[simp] theorem State.emit_offers1 (s : State) (e : Event) : (s.emit e).offers1 = s.offers1 := rfl
@[simp] theorem State.emit_inputs (s : State) (e : Event) : (s.emit e).inputs = s.inputs := rfl
@[simp] theorem State.emit_cfg (s : State) (e : Event) : (s.emit e).cfg = s.cfg := rfl

@[simp] theorem State.writeRam_outbuf (s : State) (a : Nat) (v : Byte) : (s.writeRam a v).outbuf = s.outbuf := rfl
@[simp] theorem State.writeRam_inbuf (s : State) (a : Nat) (v : Byte) : (s.writeRam a v).inbuf = s.inbuf := rfl
@[simp] theorem State.writeRam_cmd (s : State) (a : Nat) (v : Byte) : (s.writeRam a v).cmd = s.cmd := rfl
@[simp] theorem State.writeRam_obf (s : State) (a : Nat) (v : Byte) : (s.writeRam a v).obf = s.obf := rfl
@[simp] theorem State.writeRam_ibf (s : State) (a : Nat) (v : Byte) : (s.writeRam a v).ibf = s.ibf := rfl
@[simp] theorem State.writeRam_cmdflag (s : State) (a : Nat) (v : Byte) : (s.writeRam a v).cmdflag = s.cmdflag := rfl
@[simp] theorem State.writeRam_aux (s : State) (a : Nat) (v : Byte) : (s.writeRam a v).aux = s.aux := rfl
@[simp] theorem State.writeRam_stOverride (s : State) (a : Nat) (v : Byte) : (s.writeRam a v).stOverride = s.stOverride := rfl
@[simp] theorem State.writeRam_hideObf (s : State) (a : Nat) (v : Byte) : (s.writeRam a v).hideObf = s.hideObf := rfl
@[simp] theorem State.writeRam_ram (s : State) (a : Nat) (v : Byte) : (s.writeRam a v).ram = Memory.write s.cfg.cfg0Reset s.ram a v := rfl
@[simp] theorem State.writeRam_outport (s : State) (a : Nat) (v : Byte) : (s.writeRam a v).outport = s.outport := rfl
@[simp] theorem State.writeRam_inport (s : State) (a : Nat) (v : Byte) : (s.writeRam a v).inport = s.inport := rfl
@[simp] theorem State.writeRam_pw (s : State) (a : Nat) (v : Byte) : (s.writeRam a v).pw = s.pw := rfl
@[simp] theorem State.writeRam_armOutport (s : State) (a : Nat) (v : Byte) : (s.writeRam a v).armOutport = s.armOutport := rfl
@[simp] theorem State.writeRam_armSim0 (s : State) (a : Nat) (v : Byte) : (s.writeRam a v).armSim0 = s.armSim0 := rfl
@[simp] theorem State.writeRam_armSim1 (s : State) (a : Nat) (v : Byte) : (s.writeRam a v).armSim1 = s.armSim1 := rfl
@[simp] theorem State.writeRam_armAux (s : State) (a : Nat) (v : Byte) : (s.writeRam a v).armAux = s.armAux := rfl
@[simp] theorem State.writeRam_rdOutport (s : State) (a : Nat) (v : Byte) : (s.writeRam a v).rdOutport = s.rdOutport := rfl
@[simp] theorem State.writeRam_ramRdIdx (s : State) (a : Nat) (v : Byte) : (s.writeRam a v).ramRdIdx = s.ramRdIdx := rfl
@[simp] theorem State.writeRam_ramWrIdx (s : State) (a : Nat) (v : Byte) : (s.writeRam a v).ramWrIdx = s.ramWrIdx := rfl
@[simp] theorem State.writeRam_secMode (s : State) (a : Nat) (v : Byte) : (s.writeRam a v).secMode = s.secMode := rfl
@[simp] theorem State.writeRam_secSum (s : State) (a : Nat) (v : Byte) : (s.writeRam a v).secSum = s.secSum := rfl
@[simp] theorem State.writeRam_secKey (s : State) (a : Nat) (v : Byte) : (s.writeRam a v).secKey = s.secKey := rfl
@[simp] theorem State.writeRam_xlatEsc (s : State) (a : Nat) (v : Byte) : (s.writeRam a v).xlatEsc = s.xlatEsc := rfl
@[simp] theorem State.writeRam_inj0 (s : State) (a : Nat) (v : Byte) : (s.writeRam a v).inj0 = s.inj0 := rfl
@[simp] theorem State.writeRam_inj1 (s : State) (a : Nat) (v : Byte) : (s.writeRam a v).inj1 = s.inj1 := rfl
@[simp] theorem State.writeRam_q (s : State) (a : Nat) (v : Byte) : (s.writeRam a v).q = s.q := rfl
@[simp] theorem State.writeRam_acc (s : State) (a : Nat) (v : Byte) : (s.writeRam a v).acc = s.acc := rfl
@[simp] theorem State.writeRam_budget (s : State) (a : Nat) (v : Byte) : (s.writeRam a v).budget = s.budget := rfl
@[simp] theorem State.writeRam_dout (s : State) (a : Nat) (v : Byte) : (s.writeRam a v).dout = s.dout := rfl
@[simp] theorem State.writeRam_trace (s : State) (a : Nat) (v : Byte) : (s.writeRam a v).trace = s.trace := rfl
@[simp] theorem State.writeRam_offers0 (s : State) (a : Nat) (v : Byte) : (s.writeRam a v).offers0 = s.offers0 := rfl
@[simp] theorem State.writeRam_offers1 (s : State) (a : Nat) (v : Byte) : (s.writeRam a v).offers1 = s.offers1 := rfl
@[simp] theorem State.writeRam_inputs (s : State) (a : Nat) (v : Byte) : (s.writeRam a v).inputs = s.inputs := rfl
@[simp] theorem State.writeRam_cfg (s : State) (a : Nat) (v : Byte) : (s.writeRam a v).cfg = s.cfg := rfl

@[simp] theorem State.setInj_outbuf (s : State) (c : Channel) (v : Option Byte) : (s.setInj c v).outbuf = s.outbuf := by cases c <;> rfl
@[simp] theorem State.setInj_inbuf (s : State) (c : Channel) (v : Option Byte) : (s.setInj c v).inbuf = s.inbuf := by cases c <;> rfl
@[simp] theorem State.setInj_cmd (s : State) (c : Channel) (v : Option Byte) : (s.setInj c v).cmd = s.cmd := by cases c <;> rfl
@[simp] theorem State.setInj_obf (s : State) (c : Channel) (v : Option Byte) : (s.setInj c v).obf = s.obf := by cases c <;> rfl
@[simp] theorem State.setInj_ibf (s : State) (c : Channel) (v : Option Byte) : (s.setInj c v).ibf = s.ibf := by cases c <;> rfl
@[simp] theorem State.setInj_cmdflag (s : State) (c : Channel) (v : Option Byte) : (s.setInj c v).cmdflag = s.cmdflag := by cases c <;> rfl
@[simp] theorem State.setInj_aux (s : State) (c : Channel) (v : Option Byte) : (s.setInj c v).aux = s.aux := by cases c <;> rfl
@[simp] theorem State.setInj_stOverride (s : State) (c : Channel) (v : Option Byte) : (s.setInj c v).stOverride = s.stOverride := by cases c <;> rfl
@[simp] theorem State.setInj_hideObf (s : State) (c : Channel) (v : Option Byte) : (s.setInj c v).hideObf = s.hideObf := by cases c <;> rfl
@[simp] theorem State.setInj_ram (s : State) (c : Channel) (v : Option Byte) : (s.setInj c v).ram = s.ram := by cases c <;> rfl
@[simp] theorem State.setInj_outport (s : State) (c : Channel) (v : Option Byte) : (s.setInj c v).outport = s.outport := by cases c <;> rfl
@[simp] theorem State.setInj_inport (s : State) (c : Channel) (v : Option Byte) : (s.setInj c v).inport = s.inport := by cases c <;> rfl
@[simp] theorem State.setInj_pw (s : State) (c : Channel) (v : Option Byte) : (s.setInj c v).pw = s.pw := by cases c <;> rfl
@[simp] theorem State.setInj_armOutport (s : State) (c : Channel) (v : Option Byte) : (s.setInj c v).armOutport = s.armOutport := by cases c <;> rfl
@[simp] theorem State.setInj_armSim0 (s : State) (c : Channel) (v : Option Byte) : (s.setInj c v).armSim0 = s.armSim0 := by cases c <;> rfl
@[simp] theorem State.setInj_armSim1 (s : State) (c : Channel) (v : Option Byte) : (s.setInj c v).armSim1 = s.armSim1 := by cases c <;> rfl
@[simp] theorem State.setInj_armAux (s : State) (c : Channel) (v : Option Byte) : (s.setInj c v).armAux = s.armAux := by cases c <;> rfl
@[simp] theorem State.setInj_rdOutport (s : State) (c : Channel) (v : Option Byte) : (s.setInj c v).rdOutport = s.rdOutport := by cases c <;> rfl
@[simp] theorem State.setInj_ramRdIdx (s : State) (c : Channel) (v : Option Byte) : (s.setInj c v).ramRdIdx = s.ramRdIdx := by cases c <;> rfl
@[simp] theorem State.setInj_ramWrIdx (s : State) (c : Channel) (v : Option Byte) : (s.setInj c v).ramWrIdx = s.ramWrIdx := by cases c <;> rfl
@[simp] theorem State.setInj_secMode (s : State) (c : Channel) (v : Option Byte) : (s.setInj c v).secMode = s.secMode := by cases c <;> rfl
@[simp] theorem State.setInj_secSum (s : State) (c : Channel) (v : Option Byte) : (s.setInj c v).secSum = s.secSum := by cases c <;> rfl
@[simp] theorem State.setInj_secKey (s : State) (c : Channel) (v : Option Byte) : (s.setInj c v).secKey = s.secKey := by cases c <;> rfl
@[simp] theorem State.setInj_xlatEsc (s : State) (c : Channel) (v : Option Byte) : (s.setInj c v).xlatEsc = s.xlatEsc := by cases c <;> rfl
@[simp] theorem State.setInj_q (s : State) (c : Channel) (v : Option Byte) : (s.setInj c v).q = s.q := by cases c <;> rfl
@[simp] theorem State.setInj_acc (s : State) (c : Channel) (v : Option Byte) : (s.setInj c v).acc = s.acc := by cases c <;> rfl
@[simp] theorem State.setInj_budget (s : State) (c : Channel) (v : Option Byte) : (s.setInj c v).budget = s.budget := by cases c <;> rfl
@[simp] theorem State.setInj_dout (s : State) (c : Channel) (v : Option Byte) : (s.setInj c v).dout = s.dout := by cases c <;> rfl
@[simp] theorem State.setInj_trace (s : State) (c : Channel) (v : Option Byte) : (s.setInj c v).trace = s.trace := by cases c <;> rfl
@[simp] theorem State.setInj_offers0 (s : State) (c : Channel) (v : Option Byte) : (s.setInj c v).offers0 = s.offers0 := by cases c <;> rfl
@[simp] theorem State.setInj_offers1 (s : State) (c : Channel) (v : Option Byte) : (s.setInj c v).offers1 = s.offers1 := by cases c <;> rfl
@[simp] theorem State.setInj_inputs (s : State) (c : Channel) (v : Option Byte) : (s.setInj c v).inputs = s.inputs := by cases c <;> rfl
@[simp] theorem State.setInj_cfg (s : State) (c : Channel) (v : Option Byte) : (s.setInj c v).cfg = s.cfg := by cases c <;> rfl

@[simp] theorem State.setOffers_outbuf (s : State) (c : Channel) (bs : List Byte) : (s.setOffers c bs).outbuf = s.outbuf := by cases c <;> rfl
@[simp] theorem State.setOffers_inbuf (s : State) (c : Channel) (bs : List Byte) : (s.setOffers c bs).inbuf = s.inbuf := by cases c <;> rfl
@[simp] theorem State.setOffers_cmd (s : State) (c : Channel) (bs : List Byte) : (s.setOffers c bs).cmd = s.cmd := by cases c <;> rfl
@[simp] theorem State.setOffers_obf (s : State) (c : Channel) (bs : List Byte) : (s.setOffers c bs).obf = s.obf := by cases c <;> rfl
@[simp] theorem State.setOffers_ibf (s : State) (c : Channel) (bs : List Byte) : (s.setOffers c bs).ibf = s.ibf := by cases c <;> rfl
@[simp] theorem State.setOffers_cmdflag (s : State) (c : Channel) (bs : List Byte) : (s.setOffers c bs).cmdflag = s.cmdflag := by cases c <;> rfl
@[simp] theorem State.setOffers_aux (s : State) (c : Channel) (bs : List Byte) : (s.setOffers c bs).aux = s.aux := by cases c <;> rfl
@[simp] theorem State.setOffers_stOverride (s : State) (c : Channel) (bs : List Byte) : (s.setOffers c bs).stOverride = s.stOverride := by cases c <;> rfl
@[simp] theorem State.setOffers_hideObf (s : State) (c : Channel) (bs : List Byte) : (s.setOffers c bs).hideObf = s.hideObf := by cases c <;> rfl
@[simp] theorem State.setOffers_ram (s : State) (c : Channel) (bs : List Byte) : (s.setOffers c bs).ram = s.ram := by cases c <;> rfl
@[simp] theorem State.setOffers_outport (s : State) (c : Channel) (bs : List Byte) : (s.setOffers c bs).outport = s.outport := by cases c <;> rfl
@[simp] theorem State.setOffers_inport (s : State) (c : Channel) (bs : List Byte) : (s.setOffers c bs).inport = s.inport := by cases c <;> rfl
@[simp] theorem State.setOffers_pw (s : State) (c : Channel) (bs : List Byte) : (s.setOffers c bs).pw = s.pw := by cases c <;> rfl
@[simp] theorem State.setOffers_armOutport (s : State) (c : Channel) (bs : List Byte) : (s.setOffers c bs).armOutport = s.armOutport := by cases c <;> rfl
@[simp] theorem State.setOffers_armSim0 (s : State) (c : Channel) (bs : List Byte) : (s.setOffers c bs).armSim0 = s.armSim0 := by cases c <;> rfl
@[simp] theorem State.setOffers_armSim1 (s : State) (c : Channel) (bs : List Byte) : (s.setOffers c bs).armSim1 = s.armSim1 := by cases c <;> rfl
@[simp] theorem State.setOffers_armAux (s : State) (c : Channel) (bs : List Byte) : (s.setOffers c bs).armAux = s.armAux := by cases c <;> rfl
@[simp] theorem State.setOffers_rdOutport (s : State) (c : Channel) (bs : List Byte) : (s.setOffers c bs).rdOutport = s.rdOutport := by cases c <;> rfl
@[simp] theorem State.setOffers_ramRdIdx (s : State) (c : Channel) (bs : List Byte) : (s.setOffers c bs).ramRdIdx = s.ramRdIdx := by cases c <;> rfl
@[simp] theorem State.setOffers_ramWrIdx (s : State) (c : Channel) (bs : List Byte) : (s.setOffers c bs).ramWrIdx = s.ramWrIdx := by cases c <;> rfl
@[simp] theorem State.setOffers_secMode (s : State) (c : Channel) (bs : List Byte) : (s.setOffers c bs).secMode = s.secMode := by cases c <;> rfl
@[simp] theorem State.setOffers_secSum (s : State) (c : Channel) (bs : List Byte) : (s.setOffers c bs).secSum = s.secSum := by cases c <;> rfl
@[simp] theorem State.setOffers_secKey (s : State) (c : Channel) (bs : List Byte) : (s.setOffers c bs).secKey = s.secKey := by cases c <;> rfl
@[simp] theorem State.setOffers_xlatEsc (s : State) (c : Channel) (bs : List Byte) : (s.setOffers c bs).xlatEsc = s.xlatEsc := by cases c <;> rfl
@[simp] theorem State.setOffers_inj0 (s : State) (c : Channel) (bs : List Byte) : (s.setOffers c bs).inj0 = s.inj0 := by cases c <;> rfl
@[simp] theorem State.setOffers_inj1 (s : State) (c : Channel) (bs : List Byte) : (s.setOffers c bs).inj1 = s.inj1 := by cases c <;> rfl
@[simp] theorem State.setOffers_q (s : State) (c : Channel) (bs : List Byte) : (s.setOffers c bs).q = s.q := by cases c <;> rfl
@[simp] theorem State.setOffers_acc (s : State) (c : Channel) (bs : List Byte) : (s.setOffers c bs).acc = s.acc := by cases c <;> rfl
@[simp] theorem State.setOffers_budget (s : State) (c : Channel) (bs : List Byte) : (s.setOffers c bs).budget = s.budget := by cases c <;> rfl
@[simp] theorem State.setOffers_dout (s : State) (c : Channel) (bs : List Byte) : (s.setOffers c bs).dout = s.dout := by cases c <;> rfl
@[simp] theorem State.setOffers_trace (s : State) (c : Channel) (bs : List Byte) : (s.setOffers c bs).trace = s.trace := by cases c <;> rfl
@[simp] theorem State.setOffers_inputs (s : State) (c : Channel) (bs : List Byte) : (s.setOffers c bs).inputs = s.inputs := by cases c <;> rfl
@[simp] theorem State.setOffers_cfg (s : State) (c : Channel) (bs : List Byte) : (s.setOffers c bs).cfg = s.cfg := by cases c <;> rfl

@[simp] theorem lowerIrq_outbuf (s : State) (l : IrqLine) : (lowerIrq l s).outbuf = s.outbuf := rfl
@[simp] theorem lowerIrq_inbuf (s : State) (l : IrqLine) : (lowerIrq l s).inbuf = s.inbuf := rfl
@[simp] theorem lowerIrq_cmd (s : State) (l : IrqLine) : (lowerIrq l s).cmd = s.cmd := rfl
@[simp] theorem lowerIrq_obf (s : State) (l : IrqLine) : (lowerIrq l s).obf = s.obf := rfl
@[simp] theorem lowerIrq_ibf (s : State) (l : IrqLine) : (lowerIrq l s).ibf = s.ibf := rfl
@[simp] theorem lowerIrq_cmdflag (s : State) (l : IrqLine) : (lowerIrq l s).cmdflag = s.cmdflag := rfl
@[simp] theorem lowerIrq_aux (s : State) (l : IrqLine) : (lowerIrq l s).aux = s.aux := rfl
@[simp] theorem lowerIrq_stOverride (s : State) (l : IrqLine) : (lowerIrq l s).stOverride = s.stOverride := rfl
@[simp] theorem lowerIrq_hideObf (s : State) (l : IrqLine) : (lowerIrq l s).hideObf = s.hideObf := rfl
@[simp] theorem lowerIrq_ram (s : State) (l : IrqLine) : (lowerIrq l s).ram = s.ram := rfl
@[simp] theorem lowerIrq_outport (s : State) (l : IrqLine) : (lowerIrq l s).outport = setBit s.outport l.outBit false := rfl
@[simp] theorem lowerIrq_inport (s : State) (l : IrqLine) : (lowerIrq l s).inport = s.inport := rfl
@[simp] theorem lowerIrq_pw (s : State) (l : IrqLine) : (lowerIrq l s).pw = s.pw := rfl
@[simp] theorem lowerIrq_armOutport (s : State) (l : IrqLine) : (lowerIrq l s).armOutport = s.armOutport := rfl
@[simp] theorem lowerIrq_armSim0 (s : State) (l : IrqLine) : (lowerIrq l s).armSim0 = s.armSim0 := rfl
@[simp] theorem lowerIrq_armSim1 (s : State) (l : IrqLine) : (lowerIrq l s).armSim1 = s.armSim1 := rfl
@[simp] theorem lowerIrq_armAux (s : State) (l : IrqLine) : (lowerIrq l s).armAux = s.armAux := rfl
@[simp] theorem lowerIrq_rdOutport (s : State) (l : IrqLine) : (lowerIrq l s).rdOutport = s.rdOutport := rfl
@[simp] theorem lowerIrq_ramRdIdx (s : State) (l : IrqLine) : (lowerIrq l s).ramRdIdx = s.ramRdIdx := rfl
@[simp] theorem lowerIrq_ramWrIdx (s : State) (l : IrqLine) : (lowerIrq l s).ramWrIdx = s.ramWrIdx := rfl
@[simp] theorem lowerIrq_secMode (s : State) (l : IrqLine) : (lowerIrq l s).secMode = s.secMode := rfl
@[simp] theorem lowerIrq_secSum (s : State) (l : IrqLine) : (lowerIrq l s).secSum = s.secSum := rfl
@[simp] theorem lowerIrq_secKey (s : State) (l : IrqLine) : (lowerIrq l s).secKey = s.secKey := rfl
@[simp] theorem lowerIrq_xlatEsc (s : State) (l : IrqLine) : (lowerIrq l s).xlatEsc = s.xlatEsc := rfl
@[simp] theorem lowerIrq_inj0 (s : State) (l : IrqLine) : (lowerIrq l s).inj0 = s.inj0 := rfl
@[simp] theorem lowerIrq_inj1 (s : State) (l : IrqLine) : (lowerIrq l s).inj1 = s.inj1 := rfl
@[simp] theorem lowerIrq_q (s : State) (l : IrqLine) : (lowerIrq l s).q = s.q := rfl
@[simp] theorem lowerIrq_acc (s : State) (l : IrqLine) : (lowerIrq l s).acc = s.acc := rfl
@[simp] theorem lowerIrq_budget (s : State) (l : IrqLine) : (lowerIrq l s).budget = s.budget := rfl
@[simp] theorem lowerIrq_dout (s : State) (l : IrqLine) : (lowerIrq l s).dout = s.dout := rfl
@[simp] theorem lowerIrq_trace (s : State) (l : IrqLine) : (lowerIrq l s).trace = s.trace ++ [.irqLower l] := rfl
@[simp] theorem lowerIrq_offers0 (s : State) (l : IrqLine) : (lowerIrq l s).offers0 = s.offers0 := rfl
@[simp] theorem lowerIrq_offers1 (s : State) (l : IrqLine) : (lowerIrq l s).offers1 = s.offers1 := rfl
@[simp] theorem lowerIrq_inputs (s : State) (l : IrqLine) : (lowerIrq l s).inputs = s.inputs := rfl
@[simp] theorem lowerIrq_cfg (s : State) (l : IrqLine) : (lowerIrq l s).cfg = s.cfg := rfl

@[simp] theorem raiseIrq_outbuf (s : State) (l : IrqLine) : (raiseIrq l s).outbuf = s.outbuf := rfl
@[simp] theorem raiseIrq_inbuf (s : State) (l : IrqLine) : (raiseIrq l s).inbuf = s.inbuf := rfl
@[simp] theorem raiseIrq_cmd (s : State) (l : IrqLine) : (raiseIrq l s).cmd = s.cmd := rfl
@[simp] theorem raiseIrq_obf (s : State) (l : IrqLine) : (raiseIrq l s).obf = s.obf := rfl
@[simp] theorem raiseIrq_ibf (s : State) (l : IrqLine) : (raiseIrq l s).ibf = s.ibf := rfl
@[simp] theorem raiseIrq_cmdflag (s : State) (l : IrqLine) : (raiseIrq l s).cmdflag = s.cmdflag := rfl
@[simp] theorem raiseIrq_aux (s : State) (l : IrqLine) : (raiseIrq l s).aux = s.aux := rfl
@[simp] theorem raiseIrq_stOverride (s : State) (l : IrqLine) : (raiseIrq l s).stOverride = s.stOverride := rfl
@[simp] theorem raiseIrq_hideObf (s : State) (l : IrqLine) : (raiseIrq l s).hideObf = s.hideObf := rfl
@[simp] theorem raiseIrq_ram (s : State) (l : IrqLine) : (raiseIrq l s).ram = s.ram := rfl
@[simp] theorem raiseIrq_outport (s : State) (l : IrqLine) : (raiseIrq l s).outport = setBit s.outport l.outBit true := rfl
@[simp] theorem raiseIrq_inport (s : State) (l : IrqLine) : (raiseIrq l s).inport = s.inport := rfl
@[simp] theorem raiseIrq_pw (s : State) (l : IrqLine) : (raiseIrq l s).pw = s.pw := rfl
@[simp] theorem raiseIrq_armOutport (s : State) (l : IrqLine) : (raiseIrq l s).armOutport = s.armOutport := rfl
@[simp] theorem raiseIrq_armSim0 (s : State) (l : IrqLine) : (raiseIrq l s).armSim0 = s.armSim0 := rfl
@[simp] theorem raiseIrq_armSim1 (s : State) (l : IrqLine) : (raiseIrq l s).armSim1 = s.armSim1 := rfl
@[simp] theorem raiseIrq_armAux (s : State) (l : IrqLine) : (raiseIrq l s).armAux = s.armAux := rfl
@[simp] theorem raiseIrq_rdOutport (s : State) (l : IrqLine) : (raiseIrq l s).rdOutport = s.rdOutport := rfl
@[simp] theorem raiseIrq_ramRdIdx (s : State) (l : IrqLine) : (raiseIrq l s).ramRdIdx = s.ramRdIdx := rfl
@[simp] theorem raiseIrq_ramWrIdx (s : State) (l : IrqLine) : (raiseIrq l s).ramWrIdx = s.ramWrIdx := rfl
@[simp] theorem raiseIrq_secMode (s : State) (l : IrqLine) : (raiseIrq l s).secMode = s.secMode := rfl
@[simp] theorem raiseIrq_secSum (s : State) (l : IrqLine) : (raiseIrq l s).secSum = s.secSum := rfl
@[simp] theorem raiseIrq_secKey (s : State) (l : IrqLine) : (raiseIrq l s).secKey = s.secKey := rfl
@[simp] theorem raiseIrq_xlatEsc (s : State) (l : IrqLine) : (raiseIrq l s).xlatEsc = s.xlatEsc := rfl
@[simp] theorem raiseIrq_inj0 (s : State) (l : IrqLine) : (raiseIrq l s).inj0 = s.inj0 := rfl
@[simp] theorem raiseIrq_inj1 (s : State) (l : IrqLine) : (raiseIrq l s).inj1 = s.inj1 := rfl
@[simp] theorem raiseIrq_q (s : State) (l : IrqLine) : (raiseIrq l s).q = s.q := rfl
@[simp] theorem raiseIrq_acc (s : State) (l : IrqLine) : (raiseIrq l s).acc = s.acc := rfl
@[simp] theorem raiseIrq_budget (s : State) (l : IrqLine) : (raiseIrq l s).budget = s.budget := rfl
@[simp] theorem raiseIrq_dout (s : State) (l : IrqLine) : (raiseIrq l s).dout = s.dout := rfl
@[simp] theorem raiseIrq_trace (s : State) (l : IrqLine) : (raiseIrq l s).trace = s.trace ++ [.irqRaise l] := rfl
@[simp] theorem raiseIrq_offers0 (s : State) (l : IrqLine) : (raiseIrq l s).offers0 = s.offers0 := rfl
@[simp] theorem raiseIrq_offers1 (s : State) (l : IrqLine) : (raiseIrq l s).offers1 = s.offers1 := rfl
@[simp] theorem raiseIrq_inputs (s : State) (l : IrqLine) : (raiseIrq l s).inputs = s.inputs := rfl
@[simp] theorem raiseIrq_cfg (s : State) (l : IrqLine) : (raiseIrq l s).cfg = s.cfg := rfl

@[simp] theorem latchCommand_outbuf (s : State) (v : Byte) : (latchCommand v s).outbuf = s.outbuf := rfl
@[simp] theorem latchCommand_inbuf (s : State) (v : Byte) : (latchCommand v s).inbuf = s.inbuf := rfl
@[simp] theorem latchCommand_cmd (s : State) (v : Byte) : (latchCommand v s).cmd = v := rfl
@[simp] theorem latchCommand_obf (s : State) (v : Byte) : (latchCommand v s).obf = s.obf := rfl
@[simp] theorem latchCommand_ibf (s : State) (v : Byte) : (latchCommand v s).ibf = true := rfl
@[simp] theorem latchCommand_cmdflag (s : State) (v : Byte) : (latchCommand v s).cmdflag = true := rfl
@[simp] theorem latchCommand_aux (s : State) (v : Byte) : (latchCommand v s).aux = s.aux := rfl
@[simp] theorem latchCommand_stOverride (s : State) (v : Byte) : (latchCommand v s).stOverride = s.stOverride := rfl
@[simp] theorem latchCommand_hideObf (s : State) (v : Byte) : (latchCommand v s).hideObf = s.hideObf := rfl
@[simp] theorem latchCommand_ram (s : State) (v : Byte) : (latchCommand v s).ram = s.ram := rfl
@[simp] theorem latchCommand_outport (s : State) (v : Byte) : (latchCommand v s).outport = s.outport := rfl
@[simp] theorem latchCommand_inport (s : State) (v : Byte) : (latchCommand v s).inport = s.inport := rfl
@[simp] theorem latchCommand_pw (s : State) (v : Byte) : (latchCommand v s).pw = some .command := rfl
@[simp] theorem latchCommand_armOutport (s : State) (v : Byte) : (latchCommand v s).armOutport = s.armOutport := rfl
@[simp] theorem latchCommand_armSim0 (s : State) (v : Byte) : (latchCommand v s).armSim0 = s.armSim0 := rfl
@[simp] theorem latchCommand_armSim1 (s : State) (v : Byte) : (latchCommand v s).armSim1 = s.armSim1 := rfl
@[simp] theorem latchCommand_armAux (s : State) (v : Byte) : (latchCommand v s).armAux = s.armAux := rfl
@[simp] theorem latchCommand_rdOutport (s : State) (v : Byte) : (latchCommand v s).rdOutport = s.rdOutport := rfl
@[simp] theorem latchCommand_ramRdIdx (s : State) (v : Byte) : (latchCommand v s).ramRdIdx = s.ramRdIdx := rfl
@[simp] theorem latchCommand_ramWrIdx (s : State) (v : Byte) : (latchCommand v s).ramWrIdx = s.ramWrIdx := rfl
@[simp] theorem latchCommand_secMode (s : State) (v : Byte) : (latchCommand v s).secMode = s.secMode := rfl
@[simp] theorem latchCommand_secSum (s : State) (v : Byte) : (latchCommand v s).secSum = s.secSum := rfl
@[simp] theorem latchCommand_secKey (s : State) (v : Byte) : (latchCommand v s).secKey = s.secKey := rfl
@[simp] theorem latchCommand_xlatEsc (s : State) (v : Byte) : (latchCommand v s).xlatEsc = s.xlatEsc := rfl
@[simp] theorem latchCommand_inj0 (s : State) (v : Byte) : (latchCommand v s).inj0 = s.inj0 := rfl
@[simp] theorem latchCommand_inj1 (s : State) (v : Byte) : (latchCommand v s).inj1 = s.inj1 := rfl
@[simp] theorem latchCommand_q (s : State) (v : Byte) : (latchCommand v s).q = s.q := rfl
@[simp] theorem latchCommand_acc (s : State) (v : Byte) : (latchCommand v s).acc = s.acc := rfl
@[simp] theorem latchCommand_budget (s : State) (v : Byte) : (latchCommand v s).budget = s.budget := rfl
@[simp] theorem latchCommand_dout (s : State) (v : Byte) : (latchCommand v s).dout = s.dout := rfl
@[simp] theorem latchCommand_trace (s : State) (v : Byte) : (latchCommand v s).trace = s.trace := rfl
@[simp] theorem latchCommand_offers0 (s : State) (v : Byte) : (latchCommand v s).offers0 = s.offers0 := rfl
@[simp] theorem latchCommand_offers1 (s : State) (v : Byte) : (latchCommand v s).offers1 = s.offers1 := rfl
@[simp] theorem latchCommand_inputs (s : State) (v : Byte) : (latchCommand v s).inputs = s.inputs := rfl
@[simp] theorem latchCommand_cfg (s : State) (v : Byte) : (latchCommand v s).cfg = s.cfg := rfl

@[simp] theorem latchData_outbuf (s : State) (v : Byte) (k : PendingWrite) : (latchData v k s).outbuf = s.outbuf := rfl
@[simp] theorem latchData_inbuf (s : State) (v : Byte) (k : PendingWrite) : (latchData v k s).inbuf = v := rfl
@[simp] theorem latchData_cmd (s : State) (v : Byte) (k : PendingWrite) : (latchData v k s).cmd = s.cmd := rfl
@[simp] theorem latchData_obf (s : State) (v : Byte) (k : PendingWrite) : (latchData v k s).obf = s.obf := rfl
@[simp] theorem latchData_ibf (s : State) (v : Byte) (k : PendingWrite) : (latchData v k s).ibf = true := rfl
@[simp] theorem latchData_cmdflag (s : State) (v : Byte) (k : PendingWrite) : (latchData v k s).cmdflag = false := rfl
@[simp] theorem latchData_aux (s : State) (v : Byte) (k : PendingWrite) : (latchData v k s).aux = s.aux := rfl
@[simp] theorem latchData_stOverride (s : State) (v : Byte) (k : PendingWrite) : (latchData v k s).stOverride = s.stOverride := rfl
@[simp] theorem latchData_hideObf (s : State) (v : Byte) (k : PendingWrite) : (latchData v k s).hideObf = s.hideObf := rfl
@[simp] theorem latchData_ram (s : State) (v : Byte) (k : PendingWrite) : (latchData v k s).ram = s.ram := rfl
@[simp] theorem latchData_outport (s : State) (v : Byte) (k : PendingWrite) : (latchData v k s).outport = s.outport := rfl
@[simp] theorem latchData_inport (s : State) (v : Byte) (k : PendingWrite) : (latchData v k s).inport = s.inport := rfl
@[simp] theorem latchData_pw (s : State) (v : Byte) (k : PendingWrite) : (latchData v k s).pw = some k := rfl
@[simp] theorem latchData_armOutport (s : State) (v : Byte) (k : PendingWrite) : (latchData v k s).armOutport = s.armOutport := rfl
@[simp] theorem latchData_armSim0 (s : State) (v : Byte) (k : PendingWrite) : (latchData v k s).armSim0 = s.armSim0 := rfl
@[simp] theorem latchData_armSim1 (s : State) (v : Byte) (k : PendingWrite) : (latchData v k s).armSim1 = s.armSim1 := rfl
@[simp] theorem latchData_armAux (s : State) (v : Byte) (k : PendingWrite) : (latchData v k s).armAux = s.armAux := rfl
@[simp] theorem latchData_rdOutport (s : State) (v : Byte) (k : PendingWrite) : (latchData v k s).rdOutport = s.rdOutport := rfl
@[simp] theorem latchData_ramRdIdx (s : State) (v : Byte) (k : PendingWrite) : (latchData v k s).ramRdIdx = s.ramRdIdx := rfl
@[simp] theorem latchData_ramWrIdx (s : State) (v : Byte) (k : PendingWrite) : (latchData v k s).ramWrIdx = s.ramWrIdx := rfl
@[simp] theorem latchData_secMode (s : State) (v : Byte) (k : PendingWrite) : (latchData v k s).secMode = s.secMode := rfl
@[simp] theorem latchData_secSum (s : State) (v : Byte) (k : PendingWrite) : (latchData v k s).secSum = s.secSum := rfl
@[simp] theorem latchData_secKey (s : State) (v : Byte) (k : PendingWrite) : (latchData v k s).secKey = s.secKey := rfl
@[simp] theorem latchData_xlatEsc (s : State) (v : Byte) (k : PendingWrite) : (latchData v k s).xlatEsc = s.xlatEsc := rfl
@[simp] theorem latchData_inj0 (s : State) (v : Byte) (k : PendingWrite) : (latchData v k s).inj0 = s.inj0 := rfl
@[simp] theorem latchData_inj1 (s : State) (v : Byte) (k : PendingWrite) : (latchData v k s).inj1 = s.inj1 := rfl
@[simp] theorem latchData_q (s : State) (v : Byte) (k : PendingWrite) : (latchData v k s).q = s.q := rfl
@[simp] theorem latchData_acc (s : State) (v : Byte) (k : PendingWrite) : (latchData v k s).acc = s.acc := rfl
@[simp] theorem latchData_budget (s : State) (v : Byte) (k : PendingWrite) : (latchData v k s).budget = s.budget := rfl
@[simp] theorem latchData_dout (s : State) (v : Byte) (k : PendingWrite) : (latchData v k s).dout = s.dout := rfl
@[simp] theorem latchData_trace (s : State) (v : Byte) (k : PendingWrite) : (latchData v k s).trace = s.trace := rfl
@[simp] theorem latchData_offers0 (s : State) (v : Byte) (k : PendingWrite) : (latchData v k s).offers0 = s.offers0 := rfl
@[simp] theorem latchData_offers1 (s : State) (v : Byte) (k : PendingWrite) : (latchData v k s).offers1 = s.offers1 := rfl
@[simp] theorem latchData_inputs (s : State) (v : Byte) (k : PendingWrite) : (latchData v k s).inputs = s.inputs := rfl
@[simp] theorem latchData_cfg (s : State) (v : Byte) (k : PendingWrite) : (latchData v k s).cfg = s.cfg := rfl

@[simp] theorem releaseLatch_outbuf (s : State)  : (releaseLatch s).outbuf = s.outbuf := rfl
@[simp] theorem releaseLatch_inbuf (s : State)  : (releaseLatch s).inbuf = s.inbuf := rfl
@[simp] theorem releaseLatch_cmd (s : State)  : (releaseLatch s).cmd = s.cmd := rfl
@[simp] theorem releaseLatch_obf (s : State)  : (releaseLatch s).obf = s.obf := rfl
@[simp] theorem releaseLatch_ibf (s : State)  : (releaseLatch s).ibf = false := rfl
@[simp] theorem releaseLatch_cmdflag (s : State)  : (releaseLatch s).cmdflag = s.cmdflag := rfl
@[simp] theorem releaseLatch_aux (s : State)  : (releaseLatch s).aux = s.aux := rfl
@[simp] theorem releaseLatch_stOverride (s : State)  : (releaseLatch s).stOverride = s.stOverride := rfl
@[simp] theorem releaseLatch_hideObf (s : State)  : (releaseLatch s).hideObf = s.hideObf := rfl
@[simp] theorem releaseLatch_ram (s : State)  : (releaseLatch s).ram = s.ram := rfl
@[simp] theorem releaseLatch_outport (s : State)  : (releaseLatch s).outport = s.outport := rfl
@[simp] theorem releaseLatch_inport (s : State)  : (releaseLatch s).inport = s.inport := rfl
@[simp] theorem releaseLatch_pw (s : State)  : (releaseLatch s).pw = none := rfl
@[simp] theorem releaseLatch_armOutport (s : State)  : (releaseLatch s).armOutport = s.armOutport := rfl
@[simp] theorem releaseLatch_armSim0 (s : State)  : (releaseLatch s).armSim0 = s.armSim0 := rfl
@[simp] theorem releaseLatch_armSim1 (s : State)  : (releaseLatch s).armSim1 = s.armSim1 := rfl
@[simp] theorem releaseLatch_armAux (s : State)  : (releaseLatch s).armAux = s.armAux := rfl
@[simp] theorem releaseLatch_rdOutport (s : State)  : (releaseLatch s).rdOutport = s.rdOutport := rfl
@[simp] theorem releaseLatch_ramRdIdx (s : State)  : (releaseLatch s).ramRdIdx = s.ramRdIdx := rfl
@[simp] theorem releaseLatch_ramWrIdx (s : State)  : (releaseLatch s).ramWrIdx = s.ramWrIdx := rfl
@[simp] theorem releaseLatch_secMode (s : State)  : (releaseLatch s).secMode = s.secMode := rfl
@[simp] theorem releaseLatch_secSum (s : State)  : (releaseLatch s).secSum = s.secSum := rfl
@[simp] theorem releaseLatch_secKey (s : State)  : (releaseLatch s).secKey = s.secKey := rfl
@[simp] theorem releaseLatch_xlatEsc (s : State)  : (releaseLatch s).xlatEsc = s.xlatEsc := rfl
@[simp] theorem releaseLatch_inj0 (s : State)  : (releaseLatch s).inj0 = s.inj0 := rfl
@[simp] theorem releaseLatch_inj1 (s : State)  : (releaseLatch s).inj1 = s.inj1 := rfl
@[simp] theorem releaseLatch_q (s : State)  : (releaseLatch s).q = s.q := rfl
@[simp] theorem releaseLatch_acc (s : State)  : (releaseLatch s).acc = s.acc := rfl
@[simp] theorem releaseLatch_budget (s : State)  : (releaseLatch s).budget = s.budget := rfl
@[simp] theorem releaseLatch_dout (s : State)  : (releaseLatch s).dout = s.dout := rfl
@[simp] theorem releaseLatch_trace (s : State)  : (releaseLatch s).trace = s.trace := rfl
@[simp] theorem releaseLatch_offers0 (s : State)  : (releaseLatch s).offers0 = s.offers0 := rfl
@[simp] theorem releaseLatch_offers1 (s : State)  : (releaseLatch s).offers1 = s.offers1 := rfl
@[simp] theorem releaseLatch_inputs (s : State)  : (releaseLatch s).inputs = s.inputs := rfl
@[simp] theorem releaseLatch_cfg (s : State)  : (releaseLatch s).cfg = s.cfg := rfl

/-- The injection latch just written. -/
@[simp] theorem State.inj_setInj_same (s : State) (c : Channel) (v : Option Byte) : (s.setInj c v).inj c = v := by
  cases c <;> rfl

/-- The other channel's injection latch. -/
theorem State.inj_setInj_other (s : State) {c d : Channel} (h : d ≠ c) (v : Option Byte) : (s.setInj c v).inj d = s.inj d := by
  cases c <;> cases d <;> first | rfl | exact absurd rfl h

/-- The offers just set. -/
@[simp] theorem State.offers_setOffers_same (s : State) (c : Channel) (bs : List Byte) : (s.setOffers c bs).offers c = bs := by
  cases c <;> rfl

/-- The other device's offers. -/
theorem State.offers_setOffers_other (s : State) {c d : Channel} (h : d ≠ c) (bs : List Byte) :
    (s.setOffers c bs).offers d = s.offers d := by
  cases c <;> cases d <;> first | rfl | exact absurd rfl h

@[simp] theorem State.offers_setInj (s : State) (c d : Channel) (v : Option Byte) : (s.setInj c v).offers d = s.offers d := by
  cases c <;> cases d <;> rfl

@[simp] theorem State.inj_setOffers (s : State) (c d : Channel) (bs : List Byte) : (s.setOffers c bs).inj d = s.inj d := by
  cases c <;> cases d <;> rfl

/-- What a RAM byte reads as depends on the RAM and the configuration alone. -/
theorem State.ramByte_congr {s t : State} (hr : t.ram = s.ram) (hc : t.cfg = s.cfg) (a : Nat) : t.ramByte a = s.ramByte a := by
  simp [State.ramByte, hr, hc]

@[simp] theorem State.ramByte_emit (s : State) (e : Event) (a : Nat) : (s.emit e).ramByte a = s.ramByte a := rfl

@[simp] theorem State.ramByte_setInj (s : State) (c : Channel) (v : Option Byte) (a : Nat) :
    (s.setInj c v).ramByte a = s.ramByte a := by cases c <;> rfl

@[simp] theorem State.ramByte_setOffers (s : State) (c : Channel) (bs : List Byte) (a : Nat) :
    (s.setOffers c bs).ramByte a = s.ramByte a := by cases c <;> rfl

end Sys2Proof.Machine
end

