-- ==== Sys2Proof/Laws/Ops.lean ====
section
/-! SUPPORT. What each shared operation of Machine/Ops.lean, Operands.lean and Flags.lean does, said once. -/

namespace Sys2Proof.Machine

/-! ### Single bits -/

theorem setBit_getLsbD_same (v : Byte) (i : Nat) (b : Bool) (hi : i < 8) : (setBit v i b).getLsbD i = b := by
  cases b <;> simp [setBit, hi]

theorem setBit_getLsbD_other (v : Byte) (i j : Nat) (b : Bool) (h : j ≠ i) : (setBit v i b).getLsbD j = v.getLsbD j := by
  have h' : i ≠ j := fun e => h e.symm
  cases b
  · by_cases hj : j < 8
    · simp [setBit, hj, h]
    · simp [setBit, BitVec.getLsbD_of_ge v j (by omega)]
  · simp [setBit, h']

/-- Setting a bit to the value it has changes nothing. -/
theorem setBit_self (v : Byte) (i : Nat) (hi : i < 8) : setBit v i (v.getLsbD i) = v := by
  apply BitVec.eq_of_getLsbD_eq
  intro j _
  by_cases h : j = i
  · subst h
    exact setBit_getLsbD_same v j _ hi
  · exact setBit_getLsbD_other v i j _ h

theorem disBit_lt (c : Channel) : disBit c < 8 := by cases c <;> decide

theorem outBit_lt (l : IrqLine) : l.outBit < 8 := by cases l <;> decide

/-! ### The RAM -/

/-- R13: a read after a write to the same index. -/
theorem State.ramByte_writeRam_same (s : State) (a : Nat) (v : Byte) (h : Memory.wf s.cfg.cfg0Reset s.ram = true) :
    (s.writeRam a v).ramByte a = v :=
  Memory.read_write_same s.cfg.cfg0Reset a v s.ram 0 h

/-- R13: a read after a write to another index. -/
theorem State.ramByte_writeRam_other (s : State) {a b : Nat} (v : Byte) (h : Memory.wf s.cfg.cfg0Reset s.ram = true)
    (hab : b ≠ a) : (s.writeRam a v).ramByte b = s.ramByte b :=
  Memory.read_write_other s.cfg.cfg0Reset a b v hab s.ram 0 h

/-- Every RAM write of the machine keeps the canonical form. -/
theorem State.writeRam_wf (s : State) (a : Nat) (v : Byte) (ha : a < ramSize) (h : Memory.wf s.cfg.cfg0Reset s.ram = true) :
    Memory.wf (s.writeRam a v).cfg.cfg0Reset (s.writeRam a v).ram = true :=
  Memory.write_wf s.cfg.cfg0Reset s.ram a v ha h

/-! ### The notifier rule (R103) -/

/-- R103: the event a notification adds to the trace. -/
theorem notify_eq (c : Channel) (k : NotifyCode) (s : State) :
    notify c k s = { s with trace := s.trace ++ if (s.cfg.wiring c).hasNotifier then [Event.devNotify c k] else [] } := by
  by_cases h : (s.cfg.wiring c).hasNotifier <;> simp [notify, h, State.emit]

@[simp] theorem notify_ramByte (c : Channel) (k : NotifyCode) (s : State) (a : Nat) :
    (notify c k s).ramByte a = s.ramByte a := by
  rw [notify_eq]
  rfl

/-- R103: `SetDis` on a bit that has the value already changes nothing. -/
theorem setDis_noop (c : Channel) (b : Bool) (k : NotifyCode) (s : State) (h : s.disabled c = b) : setDis c b k s = s := by
  simp [setDis, h]

/-- R103: `SetDis` on a bit that changes: the notification, then the bit. -/
theorem setDis_change (c : Channel) (b : Bool) (k : NotifyCode) (s : State) (h : s.disabled c ≠ b) :
    setDis c b k s =
      { s with
        ram := Memory.write s.cfg.cfg0Reset s.ram 0 (setBit (s.ramByte 0) (disBit c) b)
        trace := s.trace ++ if (s.cfg.wiring c).hasNotifier then [.devNotify c (if b then .disable else k)] else [] } := by
  simp [setDis, h, notify_eq, State.writeRam, State.ramByte]

/-- R103: `SetDis` changes the RAM and the trace alone. -/
theorem setDis_frame (c : Channel) (b : Bool) (k : NotifyCode) (s : State) :
    setDis c b k s = { s with ram := (setDis c b k s).ram, trace := (setDis c b k s).trace } := by
  by_cases h : s.disabled c = b
  · rw [setDis_noop c b k s h]
  · rw [setDis_change c b k s h]

@[simp] theorem setDis_cfg (c : Channel) (b : Bool) (k : NotifyCode) (s : State) : (setDis c b k s).cfg = s.cfg := by
  rw [setDis_frame]

@[simp] theorem setDis_inbuf (c : Channel) (b : Bool) (k : NotifyCode) (s : State) : (setDis c b k s).inbuf = s.inbuf := by
  rw [setDis_frame]

@[simp] theorem setDis_q (c : Channel) (b : Bool) (k : NotifyCode) (s : State) : (setDis c b k s).q = s.q := by
  rw [setDis_frame]

/-- R103: the configuration byte after `SetDis`. -/
theorem setDis_ramByte_zero (c : Channel) (b : Bool) (k : NotifyCode) (s : State)
    (hw : Memory.wf s.cfg.cfg0Reset s.ram = true) :
    (setDis c b k s).ramByte 0 = setBit (s.ramByte 0) (disBit c) b := by
  by_cases h : s.disabled c = b
  · rw [setDis_noop c b k s h, ← h]
    exact (setBit_self _ _ (disBit_lt c)).symm
  · rw [setDis_change c b k s h]
    exact Memory.read_write_same _ 0 _ s.ram 0 hw

/-- R103: every other RAM byte after `SetDis`. -/
theorem setDis_ramByte_other (c : Channel) (b : Bool) (k : NotifyCode) (s : State)
    (hw : Memory.wf s.cfg.cfg0Reset s.ram = true) {a : Nat} (ha : a ≠ 0) : (setDis c b k s).ramByte a = s.ramByte a := by
  by_cases h : s.disabled c = b
  · rw [setDis_noop c b k s h]
  · rw [setDis_change c b k s h]
    exact Memory.read_write_other _ 0 a _ ha s.ram 0 hw

/-- R103: `SetDis` keeps the RAM canonical. -/
theorem setDis_wf (c : Channel) (b : Bool) (k : NotifyCode) (s : State) (hw : Memory.wf s.cfg.cfg0Reset s.ram = true) :
    Memory.wf s.cfg.cfg0Reset (setDis c b k s).ram = true := by
  by_cases h : s.disabled c = b
  · rw [setDis_noop c b k s h]
    exact hw
  · rw [setDis_change c b k s h]
    exact Memory.write_wf _ _ _ _ (by decide) hw

/-- R103: the events of `SetDis`. -/
theorem setDis_trace (c : Channel) (b : Bool) (k : NotifyCode) (s : State) :
    (setDis c b k s).trace = s.trace ++ if s.disabled c ≠ b ∧ (s.cfg.wiring c).hasNotifier = true
      then [.devNotify c (if b then .disable else k)] else [] := by
  by_cases h : s.disabled c = b
  · simp [setDis_noop c b k s h, h]
  · simp [setDis_change c b k s h, h]

/-! ### The Output Queue (R110 to R113) -/

/-- R111: a push changes the queue alone. -/
theorem qPush_eq (b : Byte) (s : State) :
    qPush b s = { s with q := if s.q.length < s.cfg.queueCap then s.q ++ [b] else s.q } := by
  by_cases h : s.q.length < s.cfg.queueCap <;> simp [qPush, h]

/-- R111: pushing bytes one after the other appends those that fit, the first ones first. -/
theorem qPushAll_eq (bs : List Byte) (s : State) :
    qPushAll bs s = { s with q := s.q ++ bs.take (s.cfg.queueCap - s.q.length) } := by
  induction bs generalizing s with
  | nil => simp [qPushAll]
  | cons b bs ih =>
    have hstep : qPushAll (b :: bs) s = qPushAll bs (qPush b s) := rfl
    rw [hstep, ih, qPush_eq]
    by_cases h : s.q.length < s.cfg.queueCap
    · obtain ⟨n, hn⟩ : ∃ n, s.cfg.queueCap - s.q.length = n + 1 := ⟨s.cfg.queueCap - s.q.length - 1, by omega⟩
      have hn' : s.cfg.queueCap - (s.q.length + 1) = n := by omega
      simp [h, hn, hn']
    · have h0 : s.cfg.queueCap - s.q.length = 0 := by omega
      simp [h, h0]

/-- R113: the reposition helper changes the queue alone. -/
theorem qSkipToLast_eq (s : State) : qSkipToLast s = { s with q := s.q.getLast?.toList } := by
  rcases h : s.q.getLast? with _ | b
  · have hq : s.q = [] := by simpa using h
    simp only [qSkipToLast, h, Option.toList_none]
    rw [← hq]
  · simp [qSkipToLast, h]

/-- R113: a one-byte response leaves itself alone in the queue, or, when its push was dropped, the last older byte. -/
theorem respond_eq (b : Byte) (s : State) :
    respond b s = { s with q := if s.q.length < s.cfg.queueCap then [b] else s.q.getLast?.toList } := by
  rw [respond, qSkipToLast_eq, qPush_eq]
  by_cases h : s.q.length < s.cfg.queueCap <;> simp [h]

/-- R112: a pop answers the oldest byte and removes it. -/
theorem qPop_some {s t : State} {b : Byte} (h : qPop s = some (b, t)) : ∃ rest, s.q = b :: rest ∧ t = { s with q := rest } := by
  rcases hq : s.q with _ | ⟨b', rest⟩
  · simp [qPop, hq] at h
  · simp only [qPop, hq, Option.some.injEq, Prod.mk.injEq] at h
    obtain ⟨rfl, rfl⟩ := h
    exact ⟨rest, rfl, rfl⟩

/-- R112: only an empty queue gives nothing. -/
theorem qPop_none {s : State} (h : qPop s = none) : s.q = [] := by
  rcases hq : s.q with _ | ⟨b', rest⟩
  · rfl
  · simp [qPop, hq] at h

/-! ### The write services (R176 to R180) -/

/-- R176: a forward adds at most one event. -/
theorem forward_eq (c : Channel) (s : State) :
    forward c s = { s with trace := s.trace ++ if (s.cfg.wiring c).hasWrite then [Event.devSend c s.inbuf] else [] } := by
  by_cases h : (s.cfg.wiring c).hasWrite <;> simp [forward, h, State.emit]

/-- R178: a reset request adds at most one event. -/
theorem requestReset_eq (keep : Bool) (s : State) :
    requestReset keep s = { s with trace := s.trace ++ if keep then [] else [Event.sysResetReq] } := by
  cases keep <;> simp [requestReset, State.emit]

/-- R178: what a write of the output port does. -/
theorem outportWrite_eq (s : State) :
    outportWrite s = { s with
      outport := s.inbuf
      trace := s.trace ++ [.a20Set (s.inbuf.getLsbD 1)] ++ if s.inbuf.getLsbD 0 then [] else [Event.sysResetReq] } := by
  simp [outportWrite, requestReset_eq, State.emit]

/-- R177: the notifications change the RAM and the trace alone. -/
theorem configNotify_frame (s : State) :
    configNotify s = { s with ram := (configNotify s).ram, trace := (configNotify s).trace } := by
  simp only [configNotify]
  rw [setDis_frame .c1, setDis_frame .c0]

@[simp] theorem configNotify_cfg (s : State) : (configNotify s).cfg = s.cfg := by simp [configNotify]

/-- R177: the notifications keep the RAM canonical. -/
theorem configNotify_wf (s : State) (hw : Memory.wf s.cfg.cfg0Reset s.ram = true) :
    Memory.wf s.cfg.cfg0Reset (configNotify s).ram = true := by
  have h1 := setDis_wf .c0 (s.inbuf.getLsbD (disBit .c0)) .enableIrq s hw
  have h2 := setDis_wf .c1 (s.inbuf.getLsbD (disBit .c1)) .enableIrq
    (setDis .c0 (s.inbuf.getLsbD (disBit .c0)) .enableIrq s)
  rw [setDis_cfg] at h2
  exact h2 h1

/-- R177: the notifications leave every byte but the configuration byte. -/
theorem configNotify_ramByte_other (s : State) (hw : Memory.wf s.cfg.cfg0Reset s.ram = true) {a : Nat} (ha : a ≠ 0) :
    (configNotify s).ramByte a = s.ramByte a := by
  have h1 := setDis_wf .c0 (s.inbuf.getLsbD (disBit .c0)) .enableIrq s hw
  rw [configNotify, setDis_ramByte_other _ _ _ _ (by rw [setDis_cfg]; exact h1) ha, setDis_ramByte_other _ _ _ _ hw ha]

/-- R103, R177: the events of the notifications, channel 0 first. -/
theorem configNotify_trace (s : State) (hw : Memory.wf s.cfg.cfg0Reset s.ram = true) :
    (configNotify s).trace = s.trace
      ++ (if s.disabled .c0 ≠ s.inbuf.getLsbD 4 ∧ s.cfg.dev0.hasNotifier = true
          then [.devNotify .c0 (if s.inbuf.getLsbD 4 then .disable else .enableIrq)] else [])
      ++ (if s.disabled .c1 ≠ s.inbuf.getLsbD 5 ∧ s.cfg.dev1.hasNotifier = true
          then [.devNotify .c1 (if s.inbuf.getLsbD 5 then .disable else .enableIrq)] else []) := by
  have hd : (setDis .c0 (s.inbuf.getLsbD (disBit .c0)) .enableIrq s).disabled .c1 = s.disabled .c1 := by
    simp only [State.disabled]
    rw [setDis_ramByte_zero _ _ _ _ hw, setBit_getLsbD_other _ _ _ _ (by decide)]
  rw [configNotify, setDis_trace, setDis_trace, hd, setDis_cfg]
  rfl

/-- R177: an index out of range stores nothing. -/
theorem ramWrite_out (i : Fin 287) (s : State) (h : ¬ i.val < ramSize) : ramWrite i s = s := by
  simp [ramWrite, h]

/-- R177: an index in range: the notifications of a write to byte 0, then the store. -/
theorem ramWrite_in (i : Fin 287) (s : State) (h : i.val < ramSize) :
    ramWrite i s = (if i.val = 0 then configNotify s else s).writeRam i.val s.inbuf := if_pos h

/-- R177: the state the store of a RAM write acts on has the configuration, the RAM form and the other bytes of before. -/
theorem ramWrite_before (i : Fin 287) (s : State) (hw : Memory.wf s.cfg.cfg0Reset s.ram = true) :
    (if i.val = 0 then configNotify s else s).cfg = s.cfg
      ∧ Memory.wf s.cfg.cfg0Reset (if i.val = 0 then configNotify s else s).ram = true
      ∧ ∀ a, a ≠ i.val → (if i.val = 0 then configNotify s else s).ramByte a = s.ramByte a := by
  by_cases h0 : i.val = 0
  · rw [if_pos h0, h0]
    exact ⟨configNotify_cfg s, configNotify_wf s hw, fun a ha => configNotify_ramByte_other s hw ha⟩
  · rw [if_neg h0]
    exact ⟨rfl, hw, fun _ _ => rfl⟩

/-- R177: a RAM write changes the RAM and the trace alone. -/
theorem ramWrite_frame (i : Fin 287) (s : State) :
    ramWrite i s = { s with ram := (ramWrite i s).ram, trace := (ramWrite i s).trace } := by
  by_cases h : i.val < ramSize
  · rw [ramWrite_in i s h]
    split
    · rw [configNotify_frame]
      rfl
    · rfl
  · rw [ramWrite_out i s h]

/-- R177: the byte at the index written. -/
theorem ramWrite_ramByte_same (i : Fin 287) (s : State) (h : i.val < ramSize) (hw : Memory.wf s.cfg.cfg0Reset s.ram = true) :
    (ramWrite i s).ramByte i.val = s.inbuf := by
  obtain ⟨hc, hf, _⟩ := ramWrite_before i s hw
  rw [ramWrite_in i s h]
  exact State.ramByte_writeRam_same _ _ _ (by rw [hc]; exact hf)

/-- R177: every other RAM byte. -/
theorem ramWrite_ramByte_other (i : Fin 287) (s : State) (hw : Memory.wf s.cfg.cfg0Reset s.ram = true) {a : Nat}
    (ha : a ≠ i.val) : (ramWrite i s).ramByte a = s.ramByte a := by
  obtain ⟨hc, hf, ho⟩ := ramWrite_before i s hw
  by_cases h : i.val < ramSize
  · rw [ramWrite_in i s h, State.ramByte_writeRam_other _ _ (by rw [hc]; exact hf) ha]
    exact ho a ha
  · rw [ramWrite_out i s h]

/-- R177: a RAM write keeps the RAM canonical. -/
theorem ramWrite_wf (i : Fin 287) (s : State) (hw : Memory.wf s.cfg.cfg0Reset s.ram = true) :
    Memory.wf s.cfg.cfg0Reset (ramWrite i s).ram = true := by
  obtain ⟨hc, hf, _⟩ := ramWrite_before i s hw
  by_cases h : i.val < ramSize
  · rw [ramWrite_in i s h, State.writeRam_ram, hc]
    exact Memory.write_wf _ _ _ _ h hf
  · rw [ramWrite_out i s h]
    exact hw

/-- R180: the accumulator changes the security state alone. -/
theorem securityInput_eq (s : State) :
    securityInput s = { s with
      secKey := if s.inbuf = 0x00#8 then s.secSum else s.secKey
      secMode := if s.inbuf = 0x00#8 then false else s.secMode
      secSum := if s.inbuf = 0x00#8 then s.secSum else s.secSum + s.inbuf } := by
  by_cases h : s.inbuf = 0x00#8 <;> simp [securityInput, h]

/-! ### Operands and flags -/

/-- R120: the unwrapped sum. -/
@[simp] theorem ramIndex_val (n : BitVec 5) (base : Byte) : (ramIndex n base).val = n.toNat + base.toNat := rfl

/-- R121: which indices are in range. -/
theorem inRange_eq (i : Fin 287) : (inRange i).isSome = decide (i.val < 32) := by
  by_cases h : i.val < 32 <;> simp [inRange, h]

/-- R120, R121: an index below 32 is kept. -/
theorem inRange_lt (i : Fin 287) (h : i.val < 32) : inRange i = some ⟨i.val, h⟩ := by simp [inRange, h]

/-- R120, R121: an index of 32 or more is dropped. -/
theorem inRange_ge (i : Fin 287) (h : 32 ≤ i.val) : inRange i = none := by simp [inRange, Nat.not_lt.2 h]

/-- R211: a redirection consumes at most one arm and changes nothing else. -/
theorem redirect_frame (s : State) :
    (redirect s).2 = { s with
      armOutport := (redirect s).2.armOutport, armSim0 := (redirect s).2.armSim0, armSim1 := (redirect s).2.armSim1
      armAux := (redirect s).2.armAux, ramWrIdx := (redirect s).2.ramWrIdx } := by
  unfold redirect
  split
  · rfl
  · split
    · rfl
    · split
      · rfl
      · split
        · rfl
        · split
          · rfl
          · split <;> rfl

/-- R212: bits 3:0 of the status byte are never the override's. -/
theorem overrideStatus_low (o : Option Nibble) (v : Byte) (i : Nat) (hi : i < 4) :
    (overrideStatus o v).getLsbD i = v.getLsbD i := by
  rcases o with _ | n
  · rfl
  · interval_cases i <;> simp [overrideStatus]

/-- R212: bits 7:4 of the status byte under an override. -/
theorem overrideStatus_high (n : Nibble) (v : Byte) (i : Nat) (hi : i < 4) :
    (overrideStatus (some n) v).getLsbD (4 + i) = n.getLsbD i := by
  interval_cases i <;> simp [overrideStatus]

/-! ### Reset (R240) -/

/-- R58: the RAM of the state after reset is canonical. -/
theorem State.reset_ram_wf : Memory.wf State.reset.cfg.cfg0Reset State.reset.ram = true := rfl

/-- R240: at most two notifications and three line events. -/
theorem resetEvents_length (cfg : Config) (old0 : Byte) : (resetEvents cfg old0).length ≤ 5 := by
  have h : ∀ c, (resetNotify cfg old0 c).length ≤ 1 := by
    intro c
    unfold resetNotify
    split <;> simp
  have h0 := h .c0
  have h1 := h .c1
  simp only [resetEvents, List.length_append, List.length_cons, List.length_nil]
  omega

end Sys2Proof.Machine
end

