-- ==== Sys2Proof/Laws/Filler.lean ====
section
/-! SUPPORT. What the output buffer filler does, said once. -/

namespace Sys2Proof.Machine

/-- R183, R193: the Filler takes a byte of a channel exactly when the channel has one. -/
theorem takeByte_isSome (s : State) (c : Channel) : (takeByte s c).isSome = chanHasByte s c := by
  rcases hi : s.inj c with _ | b
  · rcases ho : s.offers c with _ | ⟨b, rest⟩
    · simp [takeByte, chanHasByte, State.avail, hi, ho]
    · by_cases hp : pollable s c <;> simp [takeByte, chanHasByte, State.avail, hi, ho, hp]
  · simp [takeByte, chanHasByte, hi]

/-- R193: where the byte taken from a channel comes from: the injection latch, or the device. -/
theorem takeByte_some {s t : State} {c : Channel} {b : Byte} (h : takeByte s c = some (b, t)) :
    (s.inj c = some b ∧ t = s.setInj c none)
      ∨ (s.inj c = none ∧ pollable s c = true ∧ ∃ rest, s.offers c = b :: rest ∧ t = s.setOffers c rest) := by
  rcases hi : s.inj c with _ | b'
  · rcases ho : s.offers c with _ | ⟨b', rest⟩
    · simp [takeByte, hi, ho] at h
    · by_cases hp : pollable s c
      · simp only [takeByte, hi, ho, hp, if_true, Option.some.injEq, Prod.mk.injEq] at h
        obtain ⟨rfl, rfl⟩ := h
        exact .inr ⟨rfl, hp, rest, rfl, rfl⟩
      · simp [takeByte, hi, ho, hp] at h
  · simp only [takeByte, hi, Option.some.injEq, Prod.mk.injEq] at h
    obtain ⟨rfl, rfl⟩ := h
    exact .inl ⟨rfl, rfl⟩

/-- R196, R197: a completion changes `outbuf`, `obf`, `aux`, `outport` and the trace alone. -/
theorem complete_frame (v : Byte) (owner : Channel) (s : State) :
    complete v owner s = { s with
      outbuf := v, obf := true, aux := decide (owner = .c1)
      outport := (complete v owner s).outport, trace := (complete v owner s).trace } := by
  cases owner <;> simp only [complete, raiseOwner] <;> split <;> rfl

@[simp] theorem complete_outbuf (v : Byte) (owner : Channel) (s : State) : (complete v owner s).outbuf = v := by
  rw [complete_frame]

@[simp] theorem complete_obf (v : Byte) (owner : Channel) (s : State) : (complete v owner s).obf = true := by
  rw [complete_frame]

@[simp] theorem complete_aux (v : Byte) (owner : Channel) (s : State) : (complete v owner s).aux = decide (owner = .c1) := by
  rw [complete_frame]

@[simp] theorem lowerIrq_intEnabled (l : IrqLine) (s : State) (c : Channel) :
    (lowerIrq l s).intEnabled c = s.intEnabled c := by cases c <;> rfl

@[simp] theorem loadOutbuf_intEnabled (v : Byte) (owner : Channel) (s : State) (c : Channel) :
    (loadOutbuf v owner s).intEnabled c = s.intEnabled c := by cases c <;> rfl

@[simp] theorem loadOutbuf_outport (v : Byte) (owner : Channel) (s : State) : (loadOutbuf v owner s).outport = s.outport := rfl

@[simp] theorem loadOutbuf_trace (v : Byte) (owner : Channel) (s : State) : (loadOutbuf v owner s).trace = s.trace := rfl

/-- R197: lowering both lines and then raising one leaves the raised one alone high. -/
theorem lower_both_raise_one (v : Byte) :
    setBit (setBit (setBit v 4 false) 5 false) 4 true = setBit (setBit v 4 true) 5 false
      ∧ setBit (setBit (setBit v 4 false) 5 false) 5 true = setBit (setBit v 4 false) 5 true := by
  revert v
  decide

/-- R197: the output port after a completion. -/
theorem complete_outport (v : Byte) (owner : Channel) (s : State) :
    (complete v owner s).outport =
      setBit (setBit s.outport 4 (decide (owner = .c0) && s.intEnabled .c0)) 5 (decide (owner = .c1) && s.intEnabled .c1) := by
  have h := lower_both_raise_one s.outport
  cases owner
  · cases hi : s.intEnabled .c0 <;> simp [complete, raiseOwner, hi, lineOf, IrqLine.outBit, h.1]
  · cases hi : s.intEnabled .c1 <;> simp [complete, raiseOwner, hi, lineOf, IrqLine.outBit, h.2]

/-- R197, R228: the events of a completion. -/
theorem complete_trace (v : Byte) (owner : Channel) (s : State) :
    (complete v owner s).trace = s.trace ++ [.irqLower .irq1, .irqLower .irq12]
      ++ if s.intEnabled owner then [.irqRaise (lineOf owner)] else [] := by
  cases owner
  · cases hi : s.intEnabled .c0 <;> simp [complete, raiseOwner, hi, lineOf]
  · cases hi : s.intEnabled .c1 <;> simp [complete, raiseOwner, hi, lineOf]

/-- R190, R200: the fields a fill may change before it completes: the source it takes its byte from, and the escape. -/
abbrev SameButSources (s u : State) : Prop :=
  u = { s with
    rdOutport := u.rdOutport, ramRdIdx := u.ramRdIdx, q := u.q, xlatEsc := u.xlatEsc
    inj0 := u.inj0, inj1 := u.inj1, offers0 := u.offers0, offers1 := u.offers1 }

/-- R193: taking a byte changes the channel it comes from alone. -/
theorem takeByte_frame {s t : State} {c : Channel} {b : Byte} (h : takeByte s c = some (b, t)) : SameButSources s t := by
  rcases takeByte_some h with ⟨_, rfl⟩ | ⟨_, _, rest, _, rfl⟩ <;> cases c <;> rfl

/-- R193, R194: an escape comes from a byte 0xF0 of channel 0 under translation. -/
theorem receive_escape {c : Channel} {raw : Byte} {s t : State} (h : receive c raw s = .escape t) :
    c = .c0 ∧ s.xlate = true ∧ raw = xlatEscByte ∧ t = { s with xlatEsc := true } := by
  unfold receive at h
  split at h
  · rename_i hc
    unfold translateByte at h
    split at h
    · rename_i hr
      simp only [Polled.escape.injEq] at h
      exact ⟨hc.1, hc.2, hr, h.symm⟩
    · simp at h
  · simp at h

/-- R193, R194: a byte for the host comes from the channel it was taken from; of channel 0 under translation it is the
translated byte, else it is the byte taken. -/
theorem receive_byte {c d : Channel} {raw v : Byte} {s t : State} (h : receive c raw s = .byte d v t) :
    d = c ∧ ((c = .c0 ∧ s.xlate = true ∧ raw ≠ xlatEscByte ∧ t = { s with xlatEsc := false }
        ∧ v = if s.xlatEsc then xlatEntry s.cfg raw ||| xlatEscBit else xlatEntry s.cfg raw)
      ∨ (¬ (c = .c0 ∧ s.xlate = true) ∧ t = s ∧ v = raw)) := by
  unfold receive at h
  split at h
  · rename_i hc
    unfold translateByte at h
    split at h
    · simp at h
    · rename_i hr
      simp only [Polled.byte.injEq] at h
      obtain ⟨rfl, rfl, rfl⟩ := h
      exact ⟨hc.1.symm, .inl ⟨hc.1, hc.2, hr, rfl, rfl⟩⟩
  · rename_i hc
    simp only [Polled.byte.injEq] at h
    obtain ⟨rfl, rfl, rfl⟩ := h
    exact ⟨rfl, .inr ⟨hc, rfl, rfl⟩⟩

/-- R193: a received byte is never the answer "no channel has a byte". -/
theorem receive_ne_empty (c : Channel) (raw : Byte) (s : State) : receive c raw s ≠ .empty := by
  unfold receive translateByte
  split <;> [split; skip] <;> simp

/-- R193: no channel of a list has a byte exactly when polling it finds none. -/
theorem pollIn_empty (cs : List Channel) (s : State) : pollIn cs s = .empty ↔ ∀ c ∈ cs, chanHasByte s c = false := by
  induction cs with
  | nil => simp [pollIn]
  | cons c cs ih =>
    have ht := takeByte_isSome s c
    rcases h : takeByte s c with _ | ⟨raw, t⟩
    · rw [h] at ht
      simp only [pollIn, h, ih, List.mem_cons, forall_eq_or_imp]
      simp [← ht]
    · rw [h] at ht
      simp only [pollIn, h, List.mem_cons, forall_eq_or_imp]
      simp [receive_ne_empty, ← ht]

/-- R193: whatever polling takes, it takes from one channel of the list, the first that has a byte. -/
theorem pollIn_found {cs : List Channel} {s : State} (h : pollIn cs s ≠ .empty) :
    ∃ c ∈ cs, ∃ raw t, takeByte s c = some (raw, t) ∧ pollIn cs s = receive c raw t := by
  induction cs with
  | nil => exact absurd rfl h
  | cons c cs ih =>
    rcases ht : takeByte s c with _ | ⟨raw, t⟩
    · simp only [pollIn, ht] at h ⊢
      obtain ⟨d, hd, raw, t, h1, h2⟩ := ih h
      exact ⟨d, List.mem_cons_of_mem _ hd, raw, t, h1, h2⟩
    · exact ⟨c, List.mem_cons_self, raw, t, ht, by simp only [pollIn, ht]⟩

/-- R105: both channels are polled, in one of two orders. -/
theorem channels_all (o : PollOrder) (c : Channel) : c ∈ o.channels := by
  cases o <;> cases c <;> simp [PollOrder.channels]

/-! ### One fill -/

/-- R183, R193: a channel that has a byte gives one. -/
theorem takeByte_of_has {s : State} {c : Channel} (h : chanHasByte s c = true) : ∃ raw t, takeByte s c = some (raw, t) := by
  rw [← takeByte_isSome, Option.isSome_iff_exists] at h
  obtain ⟨⟨raw, t⟩, ht⟩ := h
  exact ⟨raw, t, ht⟩

/-- R183, R193: a channel that has no byte gives none. -/
theorem takeByte_of_not {s : State} {c : Channel} (h : chanHasByte s c = false) : takeByte s c = none := by
  rw [← takeByte_isSome] at h
  simpa using h

/-- R193: the byte taken from channel 0 is the injected one, or else the device's next one. -/
theorem takeByte_zero {s : State} {b : Byte} (h : chanHasByte s .c0 = true)
    (hb : s.inj0 = some b ∨ s.inj0 = none ∧ s.offers0.head? = some b) :
    takeByte s .c0 = some (b, { s with
      inj0 := none, offers0 := if s.inj0 = none then s.offers0.tail else s.offers0 }) := by
  obtain ⟨raw, t, ht⟩ := takeByte_of_has h
  rw [ht]
  rcases takeByte_some ht with ⟨hi, rfl⟩ | ⟨hi, _, rest, hr, rfl⟩
  · simp only [State.inj] at hi
    simp only [hi, Option.some.injEq, reduceCtorEq, false_and, or_false] at hb
    simp [hb, hi, State.setInj]
  · simp only [State.inj, State.offers] at hi hr
    simp only [hi, hr, reduceCtorEq, List.head?_cons, Option.some.injEq, true_and, false_or] at hb
    subst hb
    simp only [State.setOffers, hi, hr, if_true, List.tail_cons]

/-- R193: channel 0 is polled when it has a byte and channel 1 has none or comes later. -/
theorem pollChannels_zero {s t : State} {raw : Byte} (h : takeByte s .c0 = some (raw, t))
    (ho : chanHasByte s .c1 = false ∨ s.cfg.pollOrder = .zeroFirst) : pollChannels s = receive .c0 raw t := by
  unfold pollChannels
  rcases hp : s.cfg.pollOrder with _ | _
  · simp [PollOrder.channels, pollIn, h]
  · rcases ho with ho | ho
    · simp [PollOrder.channels, pollIn, h, takeByte_of_not ho]
    · simp [hp] at ho

/-- R193: channel 1 is polled when it has a byte and channel 0 has none or comes later. -/
theorem pollChannels_one {s t : State} {raw : Byte} (h : takeByte s .c1 = some (raw, t))
    (ho : chanHasByte s .c0 = false ∨ s.cfg.pollOrder = .oneFirst) : pollChannels s = receive .c1 raw t := by
  unfold pollChannels
  rcases hp : s.cfg.pollOrder with _ | _
  · rcases ho with ho | ho
    · simp [PollOrder.channels, pollIn, h, takeByte_of_not ho]
    · simp [hp] at ho
  · simp [PollOrder.channels, pollIn, h]

/-- R193: with no byte on either channel, polling finds none. -/
theorem pollChannels_none {s : State} (h0 : chanHasByte s .c0 = false) (h1 : chanHasByte s .c1 = false) :
    pollChannels s = .empty := by
  rw [pollChannels, pollIn_empty]
  intro c _
  cases c <;> assumption

/-- R190: with nothing on paths 1 to 3 a fill polls the channels. -/
theorem fill_channels {s : State} (h1 : s.rdOutport = false) (h2 : s.ramRdIdx = none) (h3 : s.q = []) :
    fill s = fillFromChannels s := by
  simp [fill, h1, h2, qPop, h3]

/-- R190: everything a fill can do. Produced: some byte of some owner completes, over a state in which at most the sources and
the escape changed. Swallowed: at most the sources and the escape changed. Nothing: no change. -/
theorem fill_cases (s : State) :
    (∃ v owner u, fill s = (.produced, complete v owner u) ∧ SameButSources s u)
      ∨ (∃ u, fill s = (.swallowed, u) ∧ SameButSources s u ∧ u.xlatEsc = true)
      ∨ fill s = (.nothing, s) := by
  by_cases h1 : s.rdOutport = true
  · exact .inl ⟨s.outport, .c0, { s with rdOutport := false }, by simp [fill, h1], rfl⟩
  rcases h2 : s.ramRdIdx with _ | i
  · rcases h3 : qPop s with _ | ⟨b, t⟩
    · have hf : fill s = fillFromChannels s := by simp [fill, h1, h2, h3]
      rw [hf]
      by_cases hp : pollChannels s = .empty
      · exact .inr (.inr (by simp [fillFromChannels, hp]))
      · obtain ⟨c, _, raw, t, ht, hr⟩ := pollIn_found hp
        have hfr := takeByte_frame ht
        rcases hrc : receive c raw t with _ | u | ⟨d, v, u⟩
        · exact absurd hrc (receive_ne_empty c raw t)
        · have hu := receive_escape hrc
          refine .inr (.inl ⟨u, ?_, ?_, ?_⟩)
          · simp only [fillFromChannels, pollChannels, hr, hrc]
          · rw [hu.2.2.2, hfr]
          · rw [hu.2.2.2]
        · refine .inl ⟨v, d, u, ?_, ?_⟩
          · simp only [fillFromChannels, pollChannels, hr, hrc]
          · rcases (receive_byte hrc).2 with ⟨_, _, _, hu, _⟩ | ⟨_, hu, _⟩
            · rw [hu, hfr]
            · rw [hu, hfr]
    · obtain ⟨rest, hq, rfl⟩ := qPop_some h3
      exact .inl ⟨b, .c0, { s with q := rest }, by simp [fill, h1, h2, h3], rfl⟩
  · exact .inl ⟨s.ramByte i.val, .c0, { s with ramRdIdx := none }, by simp [fill, h1, h2], rfl⟩

end Sys2Proof.Machine
end

