-- ==== Sys2Proof/Laws/Engine.lean ====
section
/-! SUPPORT. What the instructions and the clocked transfer engine do, said once. -/

namespace Sys2Proof.Machine

/-! ### The instructions -/

/-- R220: every instruction answers a next state. -/
theorem exec_answers (i : Instr) (s : State) : ∃ t, exec i s = .next t := by
  cases i with
  | rddata =>
    simp only [exec, execRddata]
    split <;> exact ⟨_, rfl⟩
  | wrdata v =>
    simp only [exec, execWrdata]
    split <;> exact ⟨_, rfl⟩
  | wrcmd v =>
    simp only [exec, execWrcmd]
    split <;> exact ⟨_, rfl⟩
  | _ => exact ⟨_, rfl⟩

/-- R24, R148, R92: the fields no command touches. -/
abbrev SameButCommandFields (s t : State) : Prop :=
  t = { s with
    stOverride := t.stOverride, ram := t.ram, outport := t.outport, inport := t.inport
    armOutport := t.armOutport, armSim0 := t.armSim0, armSim1 := t.armSim1, armAux := t.armAux
    rdOutport := t.rdOutport, ramRdIdx := t.ramRdIdx, ramWrIdx := t.ramWrIdx
    secMode := t.secMode, secSum := t.secSum, q := t.q, trace := t.trace }

theorem exec_command_frame {i : Instr} {s t : State} (hi : i.space = .command) (h : exec i s = .next t) :
    SameButCommandFields s t := by
  cases i with
  | rddata => simp [Instr.space] at hi
  | wrdata v => simp [Instr.space] at hi
  | rdstat => simp [Instr.space] at hi
  | wrcmd v => simp [Instr.space] at hi
  | dis0 =>
    simp only [exec, execDis0, Host.Outcome.next.injEq] at h
    rw [← h, setDis_frame]
  | dis1 =>
    simp only [exec, execDis1, Host.Outcome.next.injEq] at h
    rw [← h, setDis_frame]
  | en0 =>
    simp only [exec, execEn0, Host.Outcome.next.injEq] at h
    rw [← h, setDis_frame]
  | en1 =>
    simp only [exec, execEn1, Host.Outcome.next.injEq] at h
    rw [← h, setDis_frame]
  | selftest =>
    simp only [exec, execSelftest, Host.Outcome.next.injEq] at h
    rw [← h, qPush_eq, qPush_eq, setDis_frame]
  | pwtest =>
    simp only [exec, execPwtest, Host.Outcome.next.injEq] at h
    rw [← h, respond_eq]
  | iftest0 =>
    simp only [exec, execIftest0, interfaceTest, Host.Outcome.next.injEq] at h
    rw [← h, respond_eq]
  | iftest1 =>
    simp only [exec, execIftest1, interfaceTest, Host.Outcome.next.injEq] at h
    rw [← h, respond_eq]
  | dump =>
    simp only [exec, execDump, Host.Outcome.next.injEq] at h
    rw [← h, qPushAll_eq]
  | rdinp =>
    simp only [exec, execRdinp, respond_eq, Host.Outcome.next.injEq] at h
    rw [← h]
    split <;> rfl
  | pulse m r =>
    simp only [exec, execPulse, requestReset_eq, Host.Outcome.next.injEq] at h
    rw [← h]
  | _ =>
    simp only [exec, execRdram, execWrram, execPwload, execPwenable, execPollinlo, execPollinhi, execRdoutp, execWroutp,
      execSim0, execSim1, execWraux, execA20on, execA20off, driveA20, State.emit, execUndef, Host.Outcome.next.injEq] at h
    rw [← h]

/-- R81: every command byte decodes to a command. -/
theorem decodeCommand_space (v : Byte) : (decodeCommand v).space = .command := by
  revert v
  decide

/-! ### The write service (R175) -/

@[simp] theorem andThen_next (s : State) (f : State → Host.Outcome State Fault Refusal) : andThen (.next s) f = f s := rfl

/-- R175: the service of a latched write of kind `k`. -/
theorem serviceWrite_some {s : State} {k : PendingWrite} (h : s.pw = some k) :
    serviceWrite s = andThen (serviceKind k s) (fun t => .next (releaseLatch t)) := by
  unfold serviceWrite
  split
  · rename_i h0
    rw [h0] at h
    cases h
  · rename_i k' h'
    rw [h'] at h
    cases h
    rfl

/-- R175: the service of a latched command runs the instruction the command byte decodes to. -/
theorem serviceWrite_command {s : State} (h : s.pw = some .command) :
    ∃ u, exec (decodeCommand s.cmd) { s with secMode := false } = .next u ∧ serviceWrite s = .next (releaseLatch u) := by
  obtain ⟨u, hu⟩ := exec_answers (decodeCommand s.cmd) { s with secMode := false }
  refine ⟨u, hu, ?_⟩
  rw [serviceWrite_some h, serviceKind, serviceCommand, hu, andThen_next]

/-- R175: a latched write is serviced and the latch released; the budget is the engine's to spend. -/
theorem serviceWrite_answers (s : State) : ∃ t, serviceWrite s = .next t := by
  unfold serviceWrite
  split
  · exact ⟨s, rfl⟩
  · rename_i k _
    cases k with
    | command =>
      obtain ⟨t, ht⟩ := exec_answers (decodeCommand s.cmd) { s with secMode := false }
      exact ⟨releaseLatch t, by simp [serviceKind, serviceCommand, ht, andThen]⟩
    | _ => exact ⟨_, rfl⟩

/-- R175, R214: the fields a write service may change. -/
abbrev SameButServiceFields (s t : State) : Prop :=
  t = { s with
    stOverride := t.stOverride, ram := t.ram, outport := t.outport, inport := t.inport
    armOutport := t.armOutport, armSim0 := t.armSim0, armSim1 := t.armSim1, armAux := t.armAux
    rdOutport := t.rdOutport, ramRdIdx := t.ramRdIdx, ramWrIdx := t.ramWrIdx
    secMode := t.secMode, secSum := t.secSum, secKey := t.secKey, inj0 := t.inj0, inj1 := t.inj1
    q := t.q, trace := t.trace, pw := none, ibf := false }

theorem serviceWrite_frame {s t : State} {k : PendingWrite} (hk : s.pw = some k) (h : serviceWrite s = .next t) :
    SameButServiceFields s t := by
  simp only [serviceWrite, hk] at h
  cases k with
  | command =>
    obtain ⟨u, hu⟩ := exec_answers (decodeCommand s.cmd) { s with secMode := false }
    have hf := exec_command_frame (decodeCommand_space s.cmd) hu
    simp only [serviceKind, serviceCommand, hu, andThen, Host.Outcome.next.injEq] at h
    rw [← h, hf]
    rfl
  | ch c =>
    simp only [serviceKind, forward_eq, andThen, Host.Outcome.next.injEq] at h
    rw [← h]
    rfl
  | ramwr i =>
    simp only [serviceKind, andThen, Host.Outcome.next.injEq] at h
    rw [← h, ramWrite_frame]
    rfl
  | outportwr =>
    simp only [serviceKind, outportWrite_eq, andThen, Host.Outcome.next.injEq] at h
    rw [← h]
    rfl
  | sim c =>
    simp only [serviceKind, simulate, andThen, Host.Outcome.next.injEq] at h
    rw [← h]
    cases c <;> rfl
  | security =>
    simp only [serviceKind, securityInput_eq, andThen, Host.Outcome.next.injEq] at h
    rw [← h]
    rfl

/-! ### The pass (R172, R173) -/

/-- R173: everything output servicing can do in one iteration. -/
theorem readAttempt_cases (f : PassFlags) (s : State) :
    (∃ v owner u, f.rDone = false ∧ costRead ≤ s.budget ∧ s.obf = false ∧ SameButSources s u
        ∧ fill s = (.produced, complete v owner u)
        ∧ readAttempt f s = ({ f with rDone := true }, { complete v owner u with budget := s.budget - costRead }, true))
      ∨ (∃ u, s.obf = false ∧ SameButSources s u ∧ fill s = (.swallowed, u)
        ∧ readAttempt f s = ({ f with rBlocked := true }, u, false))
      ∨ readAttempt f s = (f, s, false) := by
  by_cases h : f.rDone = false ∧ f.rBlocked = false ∧ costRead ≤ s.budget ∧ s.obf = false
  · rcases fill_cases s with ⟨v, owner, u, hf, hu⟩ | ⟨u, hf, hu, _⟩ | hf
    · refine .inl ⟨v, owner, u, h.1, h.2.2.1, h.2.2.2, hu, hf, ?_⟩
      have hb : (complete v owner u).budget = s.budget := by rw [complete_frame, hu]
      simp only [readAttempt, if_pos h, hf, hb]
    · refine .inr (.inl ⟨u, h.2.2.2, hu, hf, ?_⟩)
      simp only [readAttempt, if_pos h, hf]
    · refine .inr (.inr ?_)
      simp only [readAttempt, if_pos h, hf]
  · exact .inr (.inr (by simp only [readAttempt, if_neg h]))

/-- R172, R190: without a source a fill finds nothing. -/
theorem fill_of_noSource {s : State} (h : hasSource s = false) : fill s = (.nothing, s) := by
  simp only [hasSource, Bool.or_eq_false_iff, Option.isSome_eq_false_iff, Option.isNone_iff_eq_none, Bool.not_eq_eq_eq_not,
    Bool.not_false, List.isEmpty_iff] at h
  obtain ⟨⟨⟨⟨h1, h2⟩, h3⟩, h4⟩, h5⟩ := h
  rw [fill_channels h1 h2 h3, fillFromChannels, pollChannels_none h4 h5]

/-- R172, R190: a fill that finds something has a source. -/
theorem hasSource_of_fill {s u : State} {r : FillResult} (h : fill s = (r, u)) (hr : r ≠ .nothing) : hasSource s = true := by
  cases hs : hasSource s
  · rw [fill_of_noSource hs] at h
    exact absurd (Prod.mk.inj h).1.symm hr
  · rfl

/-- R190, R200: a fill leaves the budget and the latch as they are, and `obf` too unless it produces. -/
theorem fill_engine_fields {s u : State} {r : FillResult} (h : fill s = (r, u)) :
    u.budget = s.budget ∧ u.pw = s.pw ∧ (r ≠ .produced → u.obf = s.obf) := by
  rcases fill_cases s with ⟨v, o, w, hf, hw⟩ | ⟨w, hf, hw, _⟩ | hf
  · rw [hf] at h
    obtain ⟨rfl, rfl⟩ := Prod.mk.inj h
    rw [complete_frame, hw]
    exact ⟨rfl, rfl, fun h => absurd rfl h⟩
  · rw [hf] at h
    obtain ⟨rfl, rfl⟩ := Prod.mk.inj h
    rw [hw]
    exact ⟨rfl, rfl, fun _ => rfl⟩
  · rw [hf] at h
    obtain ⟨rfl, rfl⟩ := Prod.mk.inj h
    exact ⟨rfl, rfl, fun _ => rfl⟩

/-- R173: output servicing that is due and whose fill produces. -/
theorem readAttempt_produced {f : PassFlags} {s u : State} (hd : f.rDone = false) (hb : f.rBlocked = false)
    (hc : costRead ≤ s.budget) (ho : s.obf = false) (hf : fill s = (.produced, u)) :
    readAttempt f s = ({ f with rDone := true }, { u with budget := u.budget - costRead }, true) := by
  simp only [readAttempt, if_pos (And.intro hd (And.intro hb (And.intro hc ho))), hf]

/-- R173: output servicing that is due and whose fill swallows a prefix. -/
theorem readAttempt_swallowed {f : PassFlags} {s u : State} (hd : f.rDone = false) (hb : f.rBlocked = false)
    (hc : costRead ≤ s.budget) (ho : s.obf = false) (hf : fill s = (.swallowed, u)) :
    readAttempt f s = ({ f with rBlocked := true }, u, false) := by
  simp only [readAttempt, if_pos (And.intro hd (And.intro hb (And.intro hc ho))), hf]

/-- R173: output servicing whose fill finds nothing leaves the pass as it is, due or not. -/
theorem readAttempt_nothing (f : PassFlags) {s : State} (hf : fill s = (.nothing, s)) : readAttempt f s = (f, s, false) := by
  unfold readAttempt
  split
  · simp only [hf]
  · rfl

/-- R173: when output servicing is not due, it does nothing. -/
theorem readAttempt_skip {f : PassFlags} {s : State}
    (h : f.rDone = true ∨ f.rBlocked = true ∨ s.budget < costRead ∨ s.obf = true) : readAttempt f s = (f, s, false) := by
  unfold readAttempt
  rw [if_neg]
  rintro ⟨h1, h2, h3, h4⟩
  rcases h with h | h | h | h
  · simp [h] at h1
  · simp [h] at h2
  · omega
  · simp [h] at h4

/-- R173: after the one write of the pass no further write is due. -/
theorem writeDue_done (f : PassFlags) (s : State) : writeDue { f with wDone := true } s = false := rfl

/-- R173: after the one read of the pass no further read is attempted. -/
theorem readAttempt_done {f : PassFlags} (h : f.rDone = true) (s : State) : readAttempt f s = (f, s, false) := by
  simp [readAttempt, h]

/-- R174(a): when nothing is left to do, the loop ends where it is, whatever number of iterations it may still make. -/
theorem serviceLoop_done {k : Nat} {f : PassFlags} (hr : f.rDone = true) (hw : f.wDone = true) (s : State) :
    serviceLoop k f s = .next s := by
  cases k with
  | zero => rfl
  | succ k => simp [serviceLoop, readAttempt_done hr, writeDue, hw]

/-- R173: the loop answers a next state. -/
theorem serviceLoop_answers (k : Nat) (f : PassFlags) (s : State) : ∃ t, serviceLoop k f s = .next t := by
  induction k generalizing f s with
  | zero => exact ⟨s, rfl⟩
  | succ k ih =>
    simp only [serviceLoop]
    split
    · obtain ⟨t, ht⟩ := serviceWrite_answers (readAttempt f s).2.1
      simp only [ht, andThen]
      exact ih _ _
    · split
      · exact ih _ _
      · exact ⟨_, rfl⟩

/-- R173: one iteration of the loop, as an equation. -/
theorem serviceLoop_succ (k : Nat) (f : PassFlags) (s : State) :
    serviceLoop (k + 1) f s =
      if writeDue (readAttempt f s).1 (readAttempt f s).2.1 then
        andThen (serviceWrite (readAttempt f s).2.1) (fun t =>
          serviceLoop k { (readAttempt f s).1 with wDone := true } { t with budget := t.budget - costWrite })
      else if (readAttempt f s).2.2 then serviceLoop k (readAttempt f s).1 (readAttempt f s).2.1
      else .next (readAttempt f s).2.1 := rfl

/-- R173: an iteration whose read does nothing and whose write is due: the write is serviced and paid for. -/
theorem serviceLoop_write {k : Nat} {f : PassFlags} {s t : State} (hr : readAttempt f s = (f, s, false))
    (hw : writeDue f s = true) (hs : serviceWrite s = .next t) :
    serviceLoop (k + 1) f s = serviceLoop k { f with wDone := true } { t with budget := t.budget - costWrite } := by
  simp [serviceLoop_succ, hr, hw, hs]

/-- R173: an iteration in which neither direction makes progress is the last. -/
theorem serviceLoop_stop {k : Nat} {f : PassFlags} {s : State} (hr : readAttempt f s = (f, s, false))
    (hw : writeDue f s = false) : serviceLoop (k + 1) f s = .next s := by
  simp [serviceLoop_succ, hr, hw]

/-- R173: a relation between states that output servicing and input servicing keep, and that composes, holds across a pass. -/
theorem serviceLoop_rel (R : State → State → Prop) (hrefl : ∀ s, R s s) (htrans : ∀ s t u, R s t → R t u → R s u)
    (hread : ∀ f s, R s (readAttempt f s).2.1)
    (hwrite : ∀ s t, s.pw.isSome = true → costWrite ≤ s.budget → serviceWrite s = .next t →
      R s { t with budget := t.budget - costWrite })
    (k : Nat) (f : PassFlags) (s t : State) (h : serviceLoop k f s = .next t) : R s t := by
  induction k generalizing f s with
  | zero =>
    simp only [serviceLoop, Host.Outcome.next.injEq] at h
    exact h ▸ hrefl s
  | succ k ih =>
    rw [serviceLoop_succ] at h
    split at h
    · rename_i hd
      obtain ⟨u, hu⟩ := serviceWrite_answers (readAttempt f s).2.1
      rw [hu] at h
      simp only [writeDue, Bool.and_eq_true, decide_eq_true_eq] at hd
      exact htrans _ _ _ (hread f s) (htrans _ _ _ (hwrite _ _ hd.2 hd.1.2 hu) (ih _ _ h))
    · split at h
      · exact htrans _ _ _ (hread f s) (ih _ _ h)
      · simp only [Host.Outcome.next.injEq] at h
        exact h ▸ hread f s

/-- R172, R173: a pass that is idle zeroes the budget. -/
theorem pass_idle (s : State) (h : (writeReady s || readReady s) = false) : pass s = .next { s with budget := 0 } := by
  simp [pass, h]

/-- R172, R173: a pass that is not idle runs the service loop. -/
theorem pass_busy (s : State) (h : (writeReady s || readReady s) = true) : pass s = serviceLoop 3 PassFlags.start s := by
  simp [pass, h]

/-- R172, R173: a relation that output servicing, input servicing and zeroing the budget keep, and that composes, holds across
a pass. -/
theorem pass_rel (R : State → State → Prop) (hrefl : ∀ s, R s s) (htrans : ∀ s t u, R s t → R t u → R s u)
    (hidle : ∀ s, R s { s with budget := 0 })
    (hread : ∀ f s, R s (readAttempt f s).2.1)
    (hwrite : ∀ s t, s.pw.isSome = true → costWrite ≤ s.budget → serviceWrite s = .next t →
      R s { t with budget := t.budget - costWrite })
    (s t : State) (h : pass s = .next t) : R s t := by
  cases hb : writeReady s || readReady s
  · rw [pass_idle s hb] at h
    simp only [Host.Outcome.next.injEq] at h
    exact h ▸ hidle s
  · rw [pass_busy s hb] at h
    exact serviceLoop_rel R hrefl htrans hread hwrite _ _ _ _ h

/-- R187: a pass answers a next state. -/
theorem pass_answers (s : State) : ∃ t, pass s = .next t := by
  cases hb : writeReady s || readReady s
  · exact ⟨_, pass_idle s hb⟩
  · rw [pass_busy s hb]
    exact serviceLoop_answers _ _ _

end Sys2Proof.Machine
end

