-- ==== Sys2Proof/Laws/PerInstr.lean ====
section
/-! SUPPORT. Facts that hold of every instruction, one lemma per constructor. -/

namespace Sys2Proof.Laws

/-- R80, R93: the first byte of a well-formed instruction's encoding has the match of its row under the row's mask, and in
the space of the port operations it has no bit above the two of `sel ++ dir`. -/
def EncodesItsRow.Statement (i : Instr) : Prop :=
  i.wf = true → ∃ b rest, encode i = b :: rest ∧ b &&& (rowOf i).1 = (rowOf i).2
    ∧ (i.space = .hostport → b.extractLsb' 2 6 = 0#6)

/-- R82: the bits 7 and 6 of a byte of format `RAM`. -/
theorem encodeRam_row (w x : Bool) (n : BitVec 5) :
    encodeRam w x n &&& 0xC0#8 = if w then 0x40#8 else 0x00#8 := by
  revert w x n
  decide

/-- R83: the bits 7:4 of a byte of format `PULSE`. -/
theorem encodePulse_row (m : BitVec 3) (r : Bool) : encodePulse m r &&& 0xF0#8 = 0xF0#8 := by
  revert m r
  decide

/-- The mask of a one-byte row keeps the whole byte. -/
theorem and_all (v : Byte) : v &&& 0xFF#8 = v := by
  revert v
  decide

theorem EncodesItsRow.rddata : Statement .rddata :=
  fun _ => ⟨_, _, rfl, rfl, fun _ => rfl⟩

theorem EncodesItsRow.wrdata (v : Byte) : Statement (.wrdata v) :=
  fun _ => ⟨_, _, rfl, (by decide : 0x01#8 &&& 0x03#8 = 0x01#8), fun _ => rfl⟩

theorem EncodesItsRow.rdstat : Statement .rdstat :=
  fun _ => ⟨_, _, rfl, rfl, fun _ => rfl⟩

theorem EncodesItsRow.wrcmd (v : Byte) : Statement (.wrcmd v) :=
  fun _ => ⟨_, _, rfl, (by decide : 0x03#8 &&& 0x03#8 = 0x03#8), fun _ => rfl⟩

theorem EncodesItsRow.rdram (x : Bool) (n : BitVec 5) : Statement (.rdram x n) :=
  fun _ => ⟨_, _, rfl, encodeRam_row false x n, fun h => by cases h⟩

theorem EncodesItsRow.wrram (x : Bool) (n : BitVec 5) : Statement (.wrram x n) :=
  fun _ => ⟨_, _, rfl, encodeRam_row true x n, fun h => by cases h⟩

theorem EncodesItsRow.pwtest : Statement .pwtest :=
  fun _ => ⟨_, _, rfl, rfl, fun h => by cases h⟩

theorem EncodesItsRow.pwload : Statement .pwload :=
  fun _ => ⟨_, _, rfl, rfl, fun h => by cases h⟩

theorem EncodesItsRow.pwenable : Statement .pwenable :=
  fun _ => ⟨_, _, rfl, rfl, fun h => by cases h⟩

theorem EncodesItsRow.dis1 : Statement .dis1 :=
  fun _ => ⟨_, _, rfl, rfl, fun h => by cases h⟩

theorem EncodesItsRow.en1 : Statement .en1 :=
  fun _ => ⟨_, _, rfl, rfl, fun h => by cases h⟩

theorem EncodesItsRow.iftest1 : Statement .iftest1 :=
  fun _ => ⟨_, _, rfl, rfl, fun h => by cases h⟩

theorem EncodesItsRow.selftest : Statement .selftest :=
  fun _ => ⟨_, _, rfl, rfl, fun h => by cases h⟩

theorem EncodesItsRow.iftest0 : Statement .iftest0 :=
  fun _ => ⟨_, _, rfl, rfl, fun h => by cases h⟩

theorem EncodesItsRow.dump : Statement .dump :=
  fun _ => ⟨_, _, rfl, rfl, fun h => by cases h⟩

theorem EncodesItsRow.dis0 : Statement .dis0 :=
  fun _ => ⟨_, _, rfl, rfl, fun h => by cases h⟩

theorem EncodesItsRow.en0 : Statement .en0 :=
  fun _ => ⟨_, _, rfl, rfl, fun h => by cases h⟩

theorem EncodesItsRow.rdinp : Statement .rdinp :=
  fun _ => ⟨_, _, rfl, rfl, fun h => by cases h⟩

theorem EncodesItsRow.pollinlo : Statement .pollinlo :=
  fun _ => ⟨_, _, rfl, rfl, fun h => by cases h⟩

theorem EncodesItsRow.pollinhi : Statement .pollinhi :=
  fun _ => ⟨_, _, rfl, rfl, fun h => by cases h⟩

theorem EncodesItsRow.rdoutp : Statement .rdoutp :=
  fun _ => ⟨_, _, rfl, rfl, fun h => by cases h⟩

theorem EncodesItsRow.wroutp : Statement .wroutp :=
  fun _ => ⟨_, _, rfl, rfl, fun h => by cases h⟩

theorem EncodesItsRow.sim0 : Statement .sim0 :=
  fun _ => ⟨_, _, rfl, rfl, fun h => by cases h⟩

theorem EncodesItsRow.sim1 : Statement .sim1 :=
  fun _ => ⟨_, _, rfl, rfl, fun h => by cases h⟩

theorem EncodesItsRow.wraux : Statement .wraux :=
  fun _ => ⟨_, _, rfl, rfl, fun h => by cases h⟩

theorem EncodesItsRow.a20on : Statement .a20on :=
  fun _ => ⟨_, _, rfl, rfl, fun h => by cases h⟩

theorem EncodesItsRow.a20off : Statement .a20off :=
  fun _ => ⟨_, _, rfl, rfl, fun h => by cases h⟩

theorem EncodesItsRow.pulse (m : BitVec 3) (r : Bool) : Statement (.pulse m r) :=
  fun _ => ⟨_, _, rfl, encodePulse_row m r, fun h => by cases h⟩

theorem EncodesItsRow.undef (op : Byte) : Statement (.undef op) :=
  fun _ => ⟨_, _, rfl, and_all op, fun h => by cases h⟩

end Sys2Proof.Laws
end

