-- ==== Sys2Proof/Tests/Slice0.lean ====
section
/-! SUPPORT. Tests. Expected results are those of spec/95_test_vectors.md (`V-…`, `P1` to `P5`) and of the examples in the
rules (`R…`), in the test configuration of spec/92_eei_decisions.md. The second half holds a state or term that meets the
hypotheses of each statement that has some. -/

namespace Sys2Proof.Tests

open Sys2Proof.Machine

/-! ### Helpers -/

/-- The translation table of the tests: two entries of the candidate table of spec/93_implementation_defined.md. -/
def testXlat : Vector Byte 256 := ((Vector.replicate 256 0x00#8).set 0x1C 0x1E#8).set 0x5A 0x1C#8

/-- The test configuration of spec/92_eei_decisions.md. -/
def testCfg : Config :=
  { clkPerBit := 1, cfg0Reset := 0x23#8, inportReset := 0xB1#8, xlat := testXlat, dev0 := Wiring.full, dev1 := Wiring.full }

/-- The state S0 of spec/95_test_vectors.md, with an empty trace. -/
def s0 : State := { State.powerUp testCfg with trace := [] }

/-- S0 with the byte `v` of RAM index 0. -/
def s0With (v : Byte) : State := { s0 with ram := [(0, v)] }

/-- What `f` reads in the state after one step from `s` with the next operation `op`. -/
def after {α : Type} (op : Op) (s : State) (f : State → α) : Option α :=
  match step { s with inputs := [op] } with
  | .next t => some (f t)
  | .fault _ => none
  | .refused _ => none

/-- The state after one step, or the state itself where the step stops. -/
def nextState (o : Host.Outcome State Fault Refusal) (s : State) : State :=
  match o with
  | .next t => t
  | .fault _ => s
  | .refused _ => s

/-- What `f` reads after the command byte `v`, latched in `s`, is serviced by `TICK(12)`. -/
def afterCommand {α : Type} (v : Byte) (s : State) (f : State → α) : Option α :=
  after (.tick 12) (latchCommand v s) f

/-- What `f` reads after a data byte `v`, latched in `s` as a write of kind `k`, is serviced by `TICK(12)`. -/
def afterData {α : Type} (k : PendingWrite) (v : Byte) (s : State) (f : State → α) : Option α :=
  after (.tick 12) (latchData v k s) f

/-! ### Well-formedness: the one check refuses an assigned opcode under `undef` (R94) -/

theorem test_wf_refuses_assigned_opcodes :
    (Instr.undef 0xAA#8).wf = false ∧ (Instr.undef 0x00#8).wf = false ∧ (Instr.undef 0xFF#8).wf = false
      ∧ (Instr.undef 0xDF#8).wf = false := by decide

theorem test_wf_accepts_unassigned_opcodes :
    (Instr.undef 0x80#8).wf = true ∧ (Instr.undef 0xA3#8).wf = true ∧ (Instr.undef 0xAF#8).wf = true
      ∧ (Instr.undef 0xDE#8).wf = true ∧ (Instr.undef 0xEF#8).wf = true := by decide

/-- R93: 91 opcodes are unassigned. -/
theorem test_wf_count : ((List.range 256).filter (fun n => unassigned (BitVec.ofNat 8 n))).length = 91 := by decide

/-! ### Decoding: words written out from the encodings of spec/30_encoding.md -/

/-- R80: the patterns `00`, `01`, `10`, `11`. -/
theorem test_decode_ports :
    decode .hostport [0b00000000#8] = .ok (.rddata, []) ∧ decode .hostport [0b00000001#8, 0xED#8] = .ok (.wrdata 0xED#8, [])
      ∧ decode .hostport [0b00000010#8] = .ok (.rdstat, [])
      ∧ decode .hostport [0b00000011#8, 0x61#8] = .ok (.wrcmd 0x61#8, []) := by decide

/-- R82: `0 w x n`; 0x01 decodes as 0x21. -/
theorem test_decode_ram :
    decodeCommand 0b00100001#8 = .rdram true 0b00001#5 ∧ decodeCommand 0b00000001#8 = .rdram false 0b00001#5
      ∧ decodeCommand 0b01100001#8 = .wrram true 0b00001#5 ∧ decodeCommand 0b01011111#8 = .wrram false 0b11111#5 := by decide

/-- R84, R93: 0xA4 to 0xA6. -/
theorem test_decode_security :
    decodeCommand 0b10100100#8 = .pwtest ∧ decodeCommand 0b10100101#8 = .pwload ∧ decodeCommand 0b10100110#8 = .pwenable := by
  decide

/-- R84, R93: 0xA7 to 0xAE. -/
theorem test_decode_channel :
    decodeCommand 0b10100111#8 = .dis1 ∧ decodeCommand 0b10101000#8 = .en1 ∧ decodeCommand 0b10101001#8 = .iftest1
      ∧ decodeCommand 0b10101010#8 = .selftest ∧ decodeCommand 0b10101011#8 = .iftest0 ∧ decodeCommand 0b10101100#8 = .dump
      ∧ decodeCommand 0b10101101#8 = .dis0 ∧ decodeCommand 0b10101110#8 = .en0 := by decide

/-- R84, R93: 0xC0 to 0xDF. -/
theorem test_decode_virtual_ports :
    decodeCommand 0b11000000#8 = .rdinp ∧ decodeCommand 0b11000001#8 = .pollinlo ∧ decodeCommand 0b11000010#8 = .pollinhi
      ∧ decodeCommand 0b11010000#8 = .rdoutp ∧ decodeCommand 0b11010001#8 = .wroutp ∧ decodeCommand 0b11010010#8 = .sim0
      ∧ decodeCommand 0b11010011#8 = .sim1 ∧ decodeCommand 0b11010100#8 = .wraux ∧ decodeCommand 0b11011101#8 = .a20on
      ∧ decodeCommand 0b11011111#8 = .a20off := by decide

/-- R83, R94: `1111 m r`, and an unassigned opcode. -/
theorem test_decode_pulse_and_undef :
    decodeCommand 0b11111110#8 = .pulse 0b111#3 false ∧ decodeCommand 0b11110001#8 = .pulse 0b000#3 true
      ∧ decodeCommand 0b11100101#8 = .undef 0b11100101#8 := by decide

/-- R80: what is no port operation is rejected by name. -/
theorem test_decode_rejects :
    decode .hostport [] = .error .noBytes ∧ decode .command [] = .error .noBytes
      ∧ decode .hostport [0b00000100#8] = .error (.notAPortPattern 0b00000100#8)
      ∧ decode .hostport [0b00000001#8] = .error .missingWrittenByte := by decide

/-- R93: words as spec/opcode_table.json numbers them. -/
theorem test_table_words :
    decodeTableWord 8 0 = some .rddata ∧ decodeTableWord 8 1 = some (.wrdata 0x00#8) ∧ decodeTableWord 8 2 = some .rdstat
      ∧ decodeTableWord 8 3 = some (.wrcmd 0x00#8) ∧ decodeTableWord 8 0x21 = some (.rdram true 1#5)
      ∧ decodeTableWord 8 0xAA = some .selftest ∧ decodeTableWord 8 0xE5 = some (.undef 0xE5#8) := by decide

/-- A table word placed after reset runs in the very next step: `SELFTEST` (R143) and `WRCMD(0x00)` (R213). -/
theorem test_fetch_word :
    (nextState (step (State.reset.withFetchWord 8 0xAA)) State.reset).q = [0xFA#8, 0x55#8]
      ∧ (nextState (step (State.reset.withFetchWord 8 3)) State.reset).pw = some .command := by decide

/-! ### Port operations -/

/-- V-PORT-2. -/
theorem test_rddata_empties_the_buffer :
    after (.port 0b00#2 0x00#8) { s0 with outbuf := 0xFA#8, obf := true, aux := true, outport := 0x12#8 }
      (fun t => (t.dout, t.obf, t.aux, t.outport, t.trace))
      = some (0xFA#8, false, false, 0x02#8, [.irqLower .irq1, .irqLower .irq12]) := by decide

/-- V-PORT-8. -/
theorem test_rddata_of_an_empty_buffer_is_inert :
    after (.port 0b00#2 0x00#8) { s0 with outbuf := 0x77#8, outport := 0x30#8 } (fun t => (t.dout, t.outport, t.trace))
      = some (0x77#8, 0x30#8, []) := by decide

/-- V-PORT-4, first write. -/
theorem test_wrdata_takes_the_first_arm :
    after (.port 0b01#2 0x03#8) { s0 with armOutport := true, armAux := true }
      (fun t => (t.inbuf, t.pw, t.armOutport, t.armAux, t.ibf)) = some (0x03#8, some .outportwr, false, true, true) := by decide

/-- V-PORT-5, the write. -/
theorem test_wrdata_security_before_ram :
    after (.port 0b01#2 0x05#8) { s0 with secMode := true, ramWrIdx := some 3 } (fun t => (t.pw, t.ramWrIdx, t.secMode))
      = some (some .security, some 3, true) := by decide

/-- V-PORT-3, first read. -/
theorem test_rdstat_override :
    after (.port 0b10#2 0x00#8) { s0 with obf := true, aux := true, stOverride := some 0x1#4 } (fun t => (t.dout, t.stOverride))
      = some (0x11#8, none) := by decide

/-- V-PL-5, second read. -/
theorem test_rdstat_flags :
    after (.port 0b10#2 0x00#8) { s0 with obf := true, aux := true, cmdflag := true } (fun t => t.dout) = some 0x29#8 := by decide

/-- V-PORT-7. -/
theorem test_wrcmd_latches :
    after (.port 0b11#2 0xAA#8) s0 (fun t => (t.cmd, t.pw, statusByte t)) = some (0xAA#8, some .command, 0x0A#8) := by decide

/-- V-PORT-6, third write. -/
theorem test_wrcmd_while_busy_is_dropped :
    after (.port 0b11#2 0xAD#8) (latchData 0xED#8 (.ch .c0) s0) (fun t => (t.cmd, t.cmdflag, t.pw))
      = some (0x00#8, false, some (.ch .c0)) := by decide

/-! ### RAM and security commands -/

/-- V-RAM-3, first part. -/
theorem test_rdram_last_index :
    afterCommand 0x23#8 { s0 with ram := [(0x0B, 0x1C#8)] } (fun t => t.ramRdIdx) = some (some 31) := by decide

/-- V-RAM-3, second part. -/
theorem test_rdram_out_of_range :
    afterCommand 0x24#8 { s0 with ram := [(0x0B, 0x1C#8)], ramRdIdx := some 1, obf := true } (fun t => t.ramRdIdx)
      = some none := by decide

/-- V-RAM-8. -/
theorem test_wrram_cancels_a_pending_read :
    afterCommand 0x62#8 { s0 with ramRdIdx := some 1, obf := true } (fun t => (t.ramRdIdx, t.ramWrIdx))
      = some (none, some 2) := by decide

/-- R120, R122(a): the greatest index. -/
theorem test_wrram_arms_index_286 :
    afterCommand 0x7F#8 { s0 with ram := [(0x0B, 0xFF#8)] } (fun t => t.ramWrIdx) = some (some 286) := by decide

/-- V-SEC-1 and R113: the answer alone stays queued. -/
theorem test_pwtest_match :
    afterCommand 0xA4#8 { s0 with q := [0x11#8], obf := true } (fun t => t.q) = some [0xFA#8] := by decide

/-- V-SEC-3, the test. -/
theorem test_pwtest_nomatch : afterCommand 0xA4#8 { s0 with secSum := 0x01#8 } (fun t => t.q) = some [0xF1#8] := by decide

/-- V-SEC-5. -/
theorem test_pwload_starts :
    afterCommand 0xA5#8 { s0 with secSum := 0x46#8, secKey := 0x46#8 } (fun t => (t.secSum, t.secMode, t.secKey))
      = some (0x00#8, true, 0x46#8) := by decide

/-- V-SEC-3, second byte: the sum wraps. -/
theorem test_security_sum_wraps :
    afterData .security 0x02#8 { s0 with secMode := true, secSum := 0xFF#8 } (fun t => (t.secSum, t.secMode, t.trace))
      = some (0x01#8, true, []) := by decide

/-- V-SEC-3, the abandoned load. -/
theorem test_pwenable_abandons_a_load :
    afterCommand 0xA6#8 { s0 with secMode := true, secSum := 0x01#8 } (fun t => (t.secMode, t.secSum, t.secKey))
      = some (false, 0x01#8, 0x00#8) := by decide

/-! ### Channel commands -/

/-- V-CH-1. -/
theorem test_dis1 :
    afterCommand 0xA7#8 (s0With 0x03#8) (fun t => (t.ramByte 0, t.trace)) = some (0x23#8, [.devNotify .c1 .disable]) := by decide

/-- V-CH-1, second command. -/
theorem test_dis1_again : afterCommand 0xA7#8 s0 (fun t => (t.ramByte 0, t.trace)) = some (0x23#8, []) := by decide

/-- V-CH-2. -/
theorem test_en1 :
    afterCommand 0xA8#8 s0 (fun t => (t.ramByte 0, t.trace)) = some (0x03#8, [.devNotify .c1 .enableNoIrq]) := by decide

/-- V-CH-2, second command. -/
theorem test_en1_again : afterCommand 0xA8#8 (s0With 0x03#8) (fun t => (t.ramByte 0, t.trace)) = some (0x03#8, []) := by decide

/-- V-CH-6. -/
theorem test_iftest1_without_peek :
    afterCommand 0xA9#8 { s0 with cfg := { testCfg with dev1 := { Wiring.full with hasPeek := false } } } (fun t => t.q)
      = some [0x02#8] := by decide

/-- V-CH-7. -/
theorem test_iftest1_without_notifier :
    afterCommand 0xA9#8 { s0 with cfg := { testCfg with dev1 := { Wiring.full with hasNotifier := false } } } (fun t => t.q)
      = some [0x00#8] := by decide

/-- P2, step 2. -/
theorem test_selftest :
    afterCommand 0xAA#8 s0 (fun t => (t.ramByte 0, t.q, t.trace))
      = some (0x33#8, [0xFA#8, 0x55#8], [.devNotify .c0 .disable]) := by decide

/-- V-CH-4. -/
theorem test_selftest_of_a_disabled_channel :
    afterCommand 0xAA#8 (s0With 0x33#8) (fun t => (t.ramByte 0, t.q, t.trace)) = some (0x33#8, [0xFA#8, 0x55#8], []) := by decide

/-- V-CH-5. -/
theorem test_iftest0_without_write :
    afterCommand 0xAB#8 { s0 with cfg := { testCfg with dev0 := { Wiring.full with hasWrite := false } } } (fun t => t.q)
      = some [0x01#8] := by decide

/-- V-CH-11. -/
theorem test_iftest0_with_a_full_queue :
    afterCommand 0xAB#8 { s0 with q := List.replicate 63 0x00#8 ++ [0x7E#8], obf := true } (fun t => t.q) = some [0x7E#8] := by
  decide +kernel

/-- V-CH-8, the bytes queued. -/
theorem test_dump : afterCommand 0xAC#8 s0 (fun t => t.q) = some (0x23#8 :: List.replicate 31 0x00#8) := by
  decide +kernel

/-- V-CH-10. -/
theorem test_dump_with_one_free_place :
    afterCommand 0xAC#8 { s0 with q := List.replicate 63 0x00#8, obf := true } (fun t => (t.q.length, t.q.getLast?))
      = some (64, some 0x23#8) := by decide +kernel

/-- R146, example. -/
theorem test_dis0 :
    afterCommand 0xAD#8 (s0With 0x03#8) (fun t => (t.ramByte 0, t.trace)) = some (0x13#8, [.devNotify .c0 .disable]) := by decide

/-- V-CH-3. -/
theorem test_dis0_without_notifier :
    afterCommand 0xAD#8 { s0With 0x03#8 with cfg := { testCfg with dev0 := { Wiring.full with hasNotifier := false } } }
      (fun t => (t.ramByte 0, t.trace)) = some (0x13#8, []) := by decide

/-- P2, step 13. -/
theorem test_en0 :
    afterCommand 0xAE#8 (s0With 0x33#8) (fun t => (t.ramByte 0, t.trace)) = some (0x23#8, [.devNotify .c0 .enableNoIrq]) := by
  decide

/-! ### Virtual ports and lines -/

/-- V-PL-1. -/
theorem test_rdinp : afterCommand 0xC0#8 s0 (fun t => (t.q, t.inport)) = some ([0xB1#8], 0xB1#8) := by decide

/-- V-PL-2. -/
theorem test_rdinp_variant :
    afterCommand 0xC0#8 { s0 with cfg := { testCfg with variantC0Rotate := true } } (fun t => (t.q, t.inport))
      = some ([0xB1#8], 0xB2#8) := by decide

/-- V-PL-3, the read after the command. -/
theorem test_pollinlo : afterCommand 0xC1#8 s0 (fun t => statusByte t) = some 0x18#8 := by decide

/-- V-PL-4. -/
theorem test_pollinhi : afterCommand 0xC2#8 s0 (fun t => statusByte t) = some 0xB8#8 := by decide

/-- R153(b). -/
theorem test_rdoutp :
    afterCommand 0xD0#8 { s0 with ramWrIdx := some 5 } (fun t => (t.rdOutport, t.ramRdIdx, t.ramWrIdx))
      = some (true, none, none) := by decide

/-- R154. -/
theorem test_wroutp : afterCommand 0xD1#8 s0 (fun t => (t.armOutport, t.outport)) = some (true, 0x00#8) := by decide

/-- V-PL-13: `SIM0` does not clear the other arm. -/
theorem test_sim0 : afterCommand 0xD2#8 { s0 with armSim1 := true } (fun t => (t.armSim0, t.armSim1)) = some (true, true) := by decide

/-- V-PL-12. -/
theorem test_sim1 : afterCommand 0xD3#8 { s0 with armSim0 := true } (fun t => (t.armSim0, t.armSim1)) = some (false, true) := by decide

/-- R157. -/
theorem test_wraux : afterCommand 0xD4#8 s0 (fun t => (t.armAux, t.trace)) = some (true, []) := by decide

/-- V-PL-15: the event is emitted also when the bit was set. -/
theorem test_a20on :
    afterCommand 0xDD#8 { s0 with outport := 0x02#8 } (fun t => (t.outport, t.trace)) = some (0x02#8, [.a20Set true]) := by decide

/-- R159, example. -/
theorem test_a20off :
    afterCommand 0xDF#8 { s0 with outport := 0x03#8 } (fun t => (t.outport, t.trace)) = some (0x01#8, [.a20Set false]) := by decide

/-- V-PL-16, 0xFE. -/
theorem test_pulse_even : afterCommand 0xFE#8 s0 (fun t => (t.outport, t.trace)) = some (0x00#8, [.sysResetReq]) := by decide

/-- V-PL-16, 0xF1. -/
theorem test_pulse_odd : afterCommand 0xF1#8 s0 (fun t => t.trace) = some [] := by decide

/-- V-SEC-6, first command. -/
theorem test_undef :
    afterCommand 0xE5#8 { s0 with secMode := true } (fun t => (t.secMode, t.pw, t.ibf, t.budget)) = some (false, none, false, 0) := by
  decide

/-! ### Write services -/

/-- V-RAM-6. -/
theorem test_ram_write_notifies :
    afterData (.ramwr 0) 0x10#8 s0 (fun t => (t.ramByte 0, t.trace))
      = some (0x10#8, [.devNotify .c0 .disable, .devNotify .c1 .enableIrq]) := by decide

/-- V-RAM-5. -/
theorem test_ram_write_out_of_range :
    afterData (.ramwr 32) 0x99#8 s0 (fun t => (t.ram, t.trace, t.ibf, t.budget)) = some ([], [], false, 0) := by decide

/-- V-PL-8. -/
theorem test_outport_write :
    afterData .outportwr 0x02#8 { s0 with outport := 0x03#8 } (fun t => (t.outport, t.trace))
      = some (0x02#8, [.a20Set true, .sysResetReq]) := by decide

/-- V-SEC-2, last byte. -/
theorem test_security_commit :
    afterData .security 0x00#8 { s0 with secMode := true, secSum := 0x46#8 } (fun t => (t.secKey, t.secMode))
      = some (0x46#8, false) := by decide

/-- V-ENG-8. -/
theorem test_forward_without_write_handler :
    afterData (.ch .c0) 0xED#8 { s0 with cfg := { testCfg with dev0 := { Wiring.full with hasWrite := false } } }
      (fun t => (t.trace, t.ibf, t.budget)) = some ([], false, 0) := by decide

/-- V-PL-13: `sim0`. -/
theorem test_simulate : afterData (.sim .c0) 0x11#8 s0 (fun t => t.inj0) = some (some 0x11#8) := by decide

/-! ### The engine, the Filler, reset -/

/-- V-ENG-1, both ticks. -/
theorem test_accrual :
    after (.tick 10) (latchData 0xED#8 (.ch .c0) { s0 with cfg := { testCfg with clkPerBit := 3 } })
        (fun t => (t.budget, t.acc)) = some (3, 1)
      ∧ after (.tick 2) (latchData 0xED#8 (.ch .c0) { s0 with cfg := { testCfg with clkPerBit := 3 }, acc := 1, budget := 3 })
        (fun t => (t.budget, t.acc)) = some (4, 0) := by decide

/-- V-ENG-4. -/
theorem test_one_pass_does_both :
    after (.tick 23) (latchCommand 0xAA#8 s0) (fun t => (t.obf, t.outbuf, t.q, t.budget))
      = some (true, 0xFA#8, [0x55#8], 0) := by decide

/-- V-ENG-9. -/
theorem test_read_before_write :
    after (.tick 23) (latchData 0xED#8 (.ch .c0) { s0 with q := [0x55#8] }) (fun t => (t.outbuf, t.budget, t.trace))
      = some (0x55#8, 0, [.irqLower .irq1, .irqLower .irq12, .irqRaise .irq1, .devSend .c0 0xED#8]) := by decide

/-- P5, step 6: 11 bit-clocks do not pay for a write. -/
theorem test_eleven_bit_clocks_wait :
    after (.tick 6) { latchData 0xED#8 (.ch .c0) s0 with budget := 5 } (fun t => (t.budget, t.pw, t.trace))
      = some (11, some (.ch .c0), []) := by decide

/-- V-RAM-7: the byte shown, and the one the next fill gives. -/
theorem test_pending_read_sees_dis0 :
    afterCommand 0xAD#8 { s0 with obf := true, outbuf := 0x77#8, ramRdIdx := some 0 } (fun t => (t.outbuf, (fill t).2.outbuf))
      = some (0x77#8, 0x33#8) := by decide

/-- V-ENG-7. -/
theorem test_idle_zeroes_the_budget :
    after (.tick 50) { s0 with obf := true, q := [0x55#8] } (fun t => (t.budget, t.q)) = some (0, [0x55#8]) := by decide

/-- P3, step 6. -/
theorem test_channel_one_byte :
    after (.tick 11) { s0With 0x03#8 with offers1 := [0x08#8] } (fun t => (t.outbuf, t.aux, t.outport, t.offers1))
      = some (0x08#8, true, 0x20#8, []) := by decide

/-- P4, steps 6 and 8, with the candidate table. -/
theorem test_translation :
    after (.tick 11) { s0With 0x63#8 with offers0 := [0xF0#8, 0x1C#8] } (fun t => (t.xlatEsc, t.obf, t.budget, t.offers0))
        = some (true, false, 11, [0x1C#8])
      ∧ after (.tick 0) { s0With 0x63#8 with offers0 := [0x1C#8], xlatEsc := true, budget := 11 }
        (fun t => (t.outbuf, t.xlatEsc, t.budget)) = some (0x9E#8, false, 0) := by decide

/-- V-FILL-9. -/
theorem test_gated_poll :
    after (.tick 11) { s0 with cfg := { testCfg with gatePollOnDisable := true }, offers1 := [0x08#8] }
      (fun t => (t.obf, t.budget, t.offers1)) = some (false, 0, [0x08#8]) := by decide

/-- V-PL-6: the byte delivered does not show the interrupt of its own fill. -/
theorem test_outport_read :
    after (.tick 11) { s0 with outport := 0x02#8, rdOutport := true } (fun t => (t.outbuf, t.outport)) = some (0x02#8, 0x12#8) := by
  decide

/-- V-RST-1. -/
theorem test_first_reset :
    (State.powerUp testCfg).trace = [.devNotify .c1 .disable, .irqLower .irq1, .irqLower .irq12, .a20Set false] := by decide

/-- V-RST-2. -/
theorem test_reset :
    after .reset { s0With 0x33#8 with obf := true, pw := some (.ch .c0), ibf := true, q := [0x55#8], outport := 0x12#8 } id
      = some { s0 with trace := [.devNotify .c0 .enableIrq, .irqLower .irq1, .irqLower .irq12, .a20Set false] } := rfl

/-! ### Witnesses: the hypotheses of each statement, met by concrete states and operands

A theorem `test_witness_<Name>` belongs to the statement `Obligations.<Name>`; where a statement has clauses, each clause has
its case, at the boundary values of its range. -/

/-- The state after one step with the next operation `op`. -/
def stepped (op : Op) (s : State) : State := nextState (step { s with inputs := [op] }) s

/-- The state after the service of the latched write. -/
def serviced (s : State) : State := nextState (serviceWrite s) s

/-- The state after an instruction. -/
def executed (i : Instr) (s : State) : State := nextState (exec i s) s

/-- S0 with `SELFTEST` latched. -/
def s0Selftest : State := latchCommand 0xAA#8 s0

/-- S0 with both devices offering a byte. -/
def s0Offers : State := { s0 with offers0 := [0x1C#8], offers1 := [0x08#8] }

theorem test_witness_DecodeOfEncodeIsTheInstruction :
    (Instr.wrcmd 0xFF#8).wf = true ∧ (Instr.rdram true 31#5).wf = true ∧ (Instr.pulse 7#3 false).wf = true
      ∧ (Instr.undef 0x80#8).wf = true ∧ (Instr.undef 0xEF#8).wf = true := by decide

theorem test_witness_EveryCommandByteMatchesOneRow :
    (Instr.undef 0xDE#8).wf = true ∧ (Instr.undef 0xDE#8).space = .command ∧ (Instr.wrram false 0#5).wf = true
      ∧ (Instr.wrram false 0#5).space = .command := by decide

theorem test_witness_StepRunsTheDecodedPortOperation :
    let s := { s0 with inputs := [.port 0b10#2 0x00#8, .tick 12] }
    s.standard ∧ s.inputs = .port 0b10#2 0x00#8 :: [.tick 12] := by decide

/-- The output buffer full with exactly the 12 bit-clocks; and no source, with the least and the greatest budget. -/
theorem test_witness_TickRunsTheDecodedCommand :
    (let s := { s0Selftest with obf := true, inputs := [.tick 12] };
      s.standard ∧ s.inputs = .tick 12 :: [] ∧ s.pw = some .command ∧ 12 ≤ s.budget + (s.acc + 12) / s.cfg.clkPerBit ∧ s.obf = true)
    ∧ (let s := { s0Selftest with inputs := [.tick 12] };
      s.standard ∧ s.inputs = .tick 12 :: [] ∧ s.pw = some .command ∧ 12 ≤ s.budget + (s.acc + 12) / s.cfg.clkPerBit
        ∧ hasSource s = false ∧ s.budget + (s.acc + 12) / s.cfg.clkPerBit < 23)
    ∧ (let s := { s0Selftest with inputs := [.tick 22] };
      s.standard ∧ s.inputs = .tick 22 :: [] ∧ s.pw = some .command ∧ 12 ≤ s.budget + (s.acc + 22) / s.cfg.clkPerBit
        ∧ hasSource s = false ∧ s.budget + (s.acc + 22) / s.cfg.clkPerBit < 23) := by decide

theorem test_witness_NoOperationChangesNothing : s0.standard ∧ s0.inputs = [] := by decide

theorem test_witness_CompaqVariantIsRefused :
    ({ s0 with cfg := { testCfg with security := .compaq } } : State).cfg.security = .compaq := by decide

theorem test_witness_EveryStepAnswersANextState : s0.standard := by decide

theorem test_witness_RddataReturnsTheOutputBuffer : s0.obf = false ∧ ({ s0 with obf := true } : State).obf = true := by decide

theorem test_witness_WrdataIsTakenByTheFirstRedirection :
    s0.pw = none ∧ s0Selftest.pw ≠ none ∧ ({ s0 with armOutport := true } : State).pw = none := by decide

theorem test_witness_RdstatReturnsTheStatusByte :
    s0.stOverride = none ∧ ({ s0 with stOverride := some 0xB#4 } : State).stOverride = some 0xB#4 := by decide

theorem test_witness_WrcmdLatchesTheCommand : s0.pw = none ∧ s0Selftest.pw ≠ none := by decide

/-- The indices 0, 31, 32 and 286. -/
theorem test_witness_RdramMakesAnInRangeReadPending :
    (0#5).toNat + (s0.ramByte 0x0B).toNat = 0 ∧ (31#5).toNat + (s0.ramByte 0x0B).toNat ≤ 31
      ∧ 31 < (4#5).toNat + (({ s0 with ram := [(0x0B, 0x1C#8)] } : State).ramByte 0x0B).toNat
      ∧ (31#5).toNat + (({ s0 with ram := [(0x0B, 0xFF#8)] } : State).ramByte 0x0B).toNat = 286 := by decide

theorem test_witness_PwloadAccumulatesUntilAZeroByte :
    (let s := { s0 with secMode := true };
      s.secMode = true ∧ s.pw = none ∧ s.armOutport = false ∧ s.armSim0 = false ∧ s.armSim1 = false ∧ s.armAux = false)
    ∧ (let s := { s0 with pw := some .security, ibf := true, secMode := true };
      s.pw = some .security ∧ s.inbuf = 0x00#8)
    ∧ (let s := { s0 with pw := some .security, ibf := true, secMode := true, inbuf := 0xFF#8 };
      s.pw = some .security ∧ s.inbuf ≠ 0x00#8) := by decide

theorem test_witness_EmptyBodiesChangeNothing : unassigned 0x80#8 = true ∧ unassigned 0xEF#8 = true := by decide

/-- Each of the four commands, with the bit changed and with the bit as it was. -/
theorem test_witness_EnableCommandsSetTheDisableBit :
    let cs := [(Instr.dis0, Channel.c0, true), (.dis1, .c1, true), (.en0, .c0, false), (.en1, .c1, false)]
    s0.ramOk ∧ (s0With 0x33#8).ramOk ∧ (Instr.dis0, Channel.c0, true) ∈ cs ∧ (Instr.dis1, Channel.c1, true) ∈ cs
      ∧ (Instr.en0, Channel.c0, false) ∈ cs ∧ (Instr.en1, Channel.c1, false) ∈ cs := by decide

theorem test_witness_RepeatedEnableCommandIsInert :
    s0.ramOk ∧ Instr.en1 ∈ [Instr.dis0, .dis1, .en0, .en1] ∧ exec .en1 s0 = .next (executed .en1 s0) := by
  refine ⟨by decide, by decide, rfl⟩

theorem test_witness_SelftestDisablesChannelZeroAndQueuesTwoBytes : s0.ramOk ∧ (s0With 0x33#8).ramOk := by decide

theorem test_witness_ChannelCommandsTouchOnlyTheDisableBitsTheQueueAndTheTrace :
    s0.ramOk ∧ Instr.selftest ∈ [Instr.dis1, .en1, .iftest1, .selftest, .iftest0, .dump, .dis0, .en0]
      ∧ exec .selftest s0 = .next (executed .selftest s0) := by
  refine ⟨by decide, by decide, rfl⟩

theorem test_witness_OtherInstructionsLeaveTheRam :
    Instr.wroutp ∉ [Instr.dis0, .dis1, .en0, .en1, .selftest] ∧ exec .wroutp s0 = .next (executed .wroutp s0) := by
  refine ⟨by decide, rfl⟩

theorem test_witness_RdinpQueuesTheInputPortAlone :
    s0.cfg.variantC0Rotate = false
      ∧ ({ s0 with cfg := { testCfg with variantC0Rotate := true } } : State).cfg.variantC0Rotate = true := by decide

/-- `POLLINLO` and `POLLINHI`, each with two status reads after it. -/
theorem test_witness_OverrideIsShownByExactlyOneStatusRead :
    let cs := [(Instr.pollinlo, 0), (.pollinhi, 4)]
    let read := fun s => executed .rdstat s
    ((Instr.pollinlo, 0) ∈ cs ∧ exec .pollinlo s0 = .next (executed .pollinlo s0)
        ∧ exec .rdstat (executed .pollinlo s0) = .next (read (executed .pollinlo s0))
        ∧ exec .rdstat (read (executed .pollinlo s0)) = .next (read (read (executed .pollinlo s0))))
      ∧ ((Instr.pollinhi, 4) ∈ cs ∧ exec .pollinhi s0 = .next (executed .pollinhi s0)
        ∧ exec .rdstat (executed .pollinhi s0) = .next (read (executed .pollinhi s0))
        ∧ exec .rdstat (read (executed .pollinhi s0)) = .next (read (read (executed .pollinhi s0)))) := by
  refine ⟨⟨by decide, rfl, rfl, rfl⟩, ⟨by decide, rfl, rfl, rfl⟩⟩

theorem test_witness_ForwardSendsTheInputBuffer :
    (latchData 0xED#8 (.ch .c0) s0).pw = some (.ch .c0) ∧ (latchData 0xF4#8 (.ch .c1) s0).pw = some (.ch .c1) := by decide

/-- The indices 0, 1, 31, 32 and 286. -/
theorem test_witness_RamWriteStoresAnInRangeIndex :
    s0.ramOk ∧ (latchData 0x10#8 (.ramwr 0) s0).pw = some (.ramwr 0) ∧ (latchData 0x10#8 (.ramwr 1) s0).pw = some (.ramwr 1)
      ∧ (latchData 0x10#8 (.ramwr 31) s0).pw = some (.ramwr 31) ∧ (31 : Fin 287).val ≤ 31
      ∧ (latchData 0x10#8 (.ramwr 32) s0).pw = some (.ramwr 32) ∧ 31 < (32 : Fin 287).val
      ∧ (latchData 0x10#8 (.ramwr 286) s0).pw = some (.ramwr 286) ∧ 31 < (286 : Fin 287).val := by decide

theorem test_witness_OutportWriteDrivesThePins : (latchData 0x02#8 .outportwr s0).pw = some .outportwr := by decide

theorem test_witness_SimulateFillsTheInjectionLatch :
    (latchData 0x1C#8 (.sim .c0) s0).pw = some (.sim .c0) ∧ (latchData 0x09#8 (.sim .c1) s0).pw = some (.sim .c1) := by decide

/-- An abandoned load, and a load started again. -/
theorem test_witness_CommandServiceEndsTheAccumulation :
    (let s := latchCommand 0xE5#8 { s0 with secMode := true, secSum := 0x12#8 };
      s.pw = some .command ∧ serviceWrite s = .next (serviced s) ∧ decodeCommand s.cmd ≠ .pwload)
    ∧ (let s := latchCommand 0xA5#8 { s0 with secMode := true };
      s.pw = some .command ∧ serviceWrite s = .next (serviced s) ∧ decodeCommand s.cmd = .pwload) := by
  refine ⟨⟨rfl, rfl, by decide⟩, ⟨rfl, rfl, by decide⟩⟩

/-- A queue with one free place, a full one, an empty one, one of one byte and one of two. -/
theorem test_witness_QueueOperations :
    ({ s0 with q := [0x11#8], cfg := { testCfg with queueCap := 2 } } : State).q.length < 2
      ∧ 2 ≤ ({ s0 with q := [0x11#8, 0x22#8], cfg := { testCfg with queueCap := 2 } } : State).q.length
      ∧ s0.q = [] ∧ ({ s0 with q := [0x11#8] } : State).q = 0x11#8 :: []
      ∧ ({ s0 with q := [0x11#8, 0x22#8] } : State).q = [0x11#8] ++ [0x22#8] := by decide

theorem test_witness_FillTakesTheFirstInternalSource :
    ({ s0 with rdOutport := true } : State).rdOutport = true
      ∧ (let s := { s0 with ramRdIdx := some 31 };
        s.rdOutport = false ∧ s.ramRdIdx = some 31)
      ∧ (let s := { s0 with q := [0xFA#8, 0x55#8] };
        s.rdOutport = false ∧ s.ramRdIdx = none ∧ s.q = 0xFA#8 :: [0x55#8]) := by decide

/-- No channel, each channel alone, and both channels in each order. -/
theorem test_witness_FillPollsTheChannelsInOrder :
    (s0.rdOutport = false ∧ s0.ramRdIdx = none ∧ s0.q = [] ∧ chanHasByte s0 .c0 = false ∧ chanHasByte s0 .c1 = false)
    ∧ (let s := { s0 with inj1 := some 0x09#8 };
      s.rdOutport = false ∧ s.ramRdIdx = none ∧ s.q = [] ∧ chanHasByte s .c1 = true ∧ chanHasByte s .c0 = false)
    ∧ (let s := { s0Offers with cfg := { testCfg with pollOrder := .oneFirst } };
      s.rdOutport = false ∧ s.ramRdIdx = none ∧ s.q = [] ∧ chanHasByte s .c1 = true ∧ s.cfg.pollOrder = .oneFirst)
    ∧ (let s := s0Offers;
      s.rdOutport = false ∧ s.ramRdIdx = none ∧ s.q = [] ∧ chanHasByte s .c0 = true ∧ s.cfg.pollOrder = .zeroFirst
        ∧ (s.ramByte 0).getLsbD 6 = false) := by decide

/-- The device's prefix and a byte after it; the injected prefix, and an injected byte before the device's (R155, V-FILL-5). -/
theorem test_witness_TranslationIsEscapeAware :
    let ok := fun (s : State) (b : Byte) => s.rdOutport = false ∧ s.ramRdIdx = none ∧ s.q = [] ∧ chanHasByte s .c0 = true
      ∧ chanHasByte s .c1 = false ∧ (s.ramByte 0).getLsbD 6 = true
      ∧ (s.inj0 = some b ∨ s.inj0 = none ∧ s.offers0.head? = some b)
    ok { s0With 0x63#8 with offers0 := [0xF0#8, 0x1C#8] } 0xF0#8
      ∧ ok { s0With 0x63#8 with offers0 := [0x1C#8], xlatEsc := true } 0x1C#8
      ∧ ok { s0With 0x63#8 with inj0 := some 0xF0#8 } 0xF0#8
      ∧ ok { s0With 0x63#8 with inj0 := some 0x5A#8, offers0 := [0x1C#8] } 0x5A#8
      ∧ 0x1C#8 ≠ 0xF0#8 ∧ 0x5A#8 ≠ 0xF0#8 := by decide

theorem test_witness_ProducedFillArbitratesTheLines :
    fill s0Offers = (.produced, (fill s0Offers).2) ∧ fill { s0 with q := [0x55#8] } = (.produced, (fill { s0 with q := [0x55#8] }).2)
      ∧ fill { s0 with inj1 := some 0x09#8 } = (.produced, (fill { s0 with inj1 := some 0x09#8 }).2) := by
  refine ⟨rfl, rfl, rfl⟩

/-- V-FILL-2; with the translation on; and with an injected byte. -/
theorem test_witness_ChannelZeroHasPriority :
    let ok := fun (s : State) (b : Byte) => s.rdOutport = false ∧ s.ramRdIdx = none ∧ s.q = []
      ∧ s.cfg.pollOrder = .zeroFirst ∧ chanHasByte s .c0 = true ∧ chanHasByte s .c1 = true ∧ (s.ramByte 0).getLsbD 0 = true
      ∧ (s.inj0 = some b ∨ s.inj0 = none ∧ s.offers0.head? = some b)
      ∧ ((s.ramByte 0).getLsbD 6 = true → b ≠ 0xF0#8)
    ok s0Offers 0x1C#8 ∧ (s0Offers.ramByte 0).getLsbD 6 = false
      ∧ ok { s0Offers with ram := [(0, 0x63#8)] } 0x1C#8
      ∧ (({ s0Offers with ram := [(0, 0x63#8)] } : State).ramByte 0).getLsbD 6 = true
      ∧ ok { s0Offers with inj0 := some 0xF0#8 } 0xF0#8 := by decide

/-- Nothing to fill; a prefix of the device; an injected prefix. -/
theorem test_witness_UnproductiveFillsChangeNoRegister :
    fill s0 = (.nothing, s0)
      ∧ (let s := { s0With 0x63#8 with offers0 := [0xF0#8] };
        fill s = (.swallowed, (fill s).2))
      ∧ (let s := { s0With 0x63#8 with inj0 := some 0xF0#8 };
        fill s = (.swallowed, (fill s).2)) := by
  refine ⟨rfl, rfl, rfl⟩

/-- A RAM write of index 1 latched, serviced, then `RDRAM 1` latched and serviced (P1); the same with the greatest index. -/
theorem test_witness_RamWriteThenPendingReadGivesTheByte :
    let s := latchData 0x5A#8 (.ramwr 1) s0
    let t := serviced s
    let t1 := executed (.wrcmd 0x21#8) t
    s.ramOk ∧ s.pw = some (.ramwr 1) ∧ (1 : Fin 287).val ≤ 31 ∧ serviceWrite s = .next t
      ∧ decodeCommand 0x21#8 = .rdram true 1#5 ∧ (1#5).toNat + (t.ramByte 0x0B).toNat = (1 : Fin 287).val
      ∧ exec (.wrcmd 0x21#8) t = .next t1 ∧ serviceWrite t1 = .next (serviced t1) := by
  refine ⟨rfl, rfl, by decide, rfl, rfl, rfl, rfl, rfl⟩

theorem test_witness_RamWriteThenPendingReadGivesTheByte_last :
    let s := latchData 0x5A#8 (.ramwr 31) s0
    let t := serviced s
    let t1 := executed (.wrcmd 0x3F#8) t
    s.ramOk ∧ s.pw = some (.ramwr 31) ∧ (31 : Fin 287).val ≤ 31 ∧ serviceWrite s = .next t
      ∧ decodeCommand 0x3F#8 = .rdram true 31#5 ∧ (31#5).toNat + (t.ramByte 0x0B).toNat = (31 : Fin 287).val
      ∧ exec (.wrcmd 0x3F#8) t = .next t1 ∧ serviceWrite t1 = .next (serviced t1) := by
  refine ⟨rfl, rfl, by decide, rfl, rfl, rfl, rfl, rfl⟩

/-- V-RAM-7, `DIS0`; and the other four commands under a pending read of index 0. -/
theorem test_witness_RamWriteThenPendingReadGivesTheByte_commands :
    let cs := [(Instr.dis0, 4, true), (.dis1, 5, true), (.en0, 4, false), (.en1, 5, false), (.selftest, 4, true)]
    let at0 := fun v => latchCommand v { s0 with ramRdIdx := some 0 }
    let ok := fun (s : State) => s.ramOk ∧ s.rdOutport = false ∧ s.ramRdIdx = some 0 ∧ s.pw = some .command
      ∧ serviceWrite s = .next (serviced s)
    (decodeCommand 0xAD#8, 4, true) ∈ cs ∧ ok (at0 0xAD#8) ∧ (decodeCommand 0xA7#8, 5, true) ∈ cs ∧ ok (at0 0xA7#8)
      ∧ (decodeCommand 0xAE#8, 4, false) ∈ cs ∧ ok (at0 0xAE#8) ∧ (decodeCommand 0xA8#8, 5, false) ∈ cs ∧ ok (at0 0xA8#8)
      ∧ (decodeCommand 0xAA#8, 4, true) ∈ cs ∧ ok (at0 0xAA#8) := by
  refine ⟨by decide, ⟨rfl, rfl, rfl, rfl, rfl⟩, by decide, ⟨rfl, rfl, rfl, rfl, rfl⟩, by decide, ⟨rfl, rfl, rfl, rfl, rfl⟩,
    by decide, ⟨rfl, rfl, rfl, rfl, rfl⟩, by decide, ⟨rfl, rfl, rfl, rfl, rfl⟩⟩

/-- Idle with a full buffer, idle without a source; 10 bit-clocks with a write latched, and with a read ready; and exactly 11 with
a write latched (P5, step 6), with no source and with a full buffer. -/
theorem test_witness_TickWithoutServiceOnlyCounts :
    (s0.pw = none ∧ hasSource s0 = false) ∧ (({ s0 with obf := true } : State).pw = none)
      ∧ (s0Selftest.budget + (s0Selftest.acc + 10) / s0Selftest.cfg.clkPerBit < 11 ∧ s0Selftest.pw ≠ none)
      ∧ (let s := { s0 with q := [0x55#8], budget := 10 };
        s.budget + (s.acc + 0) / s.cfg.clkPerBit < 11 ∧ s.obf = false ∧ hasSource s = true)
      ∧ (s0Selftest.budget + (s0Selftest.acc + 11) / s0Selftest.cfg.clkPerBit = 11 ∧ s0Selftest.pw ≠ none
        ∧ hasSource s0Selftest = false)
      ∧ (let s := { s0Selftest with obf := true, q := [0x55#8] };
        s.budget + (s.acc + 11) / s.cfg.clkPerBit ≤ 11 ∧ s.pw ≠ none ∧ s.obf = true) := by decide

/-- With 11 bit-clocks, with 22 and a write latched (V-ENG-10's mechanism), with 23 and none; and a swallowed prefix with 11
bit-clocks and a write latched, and with 23 and none. -/
theorem test_witness_TickServesTheReadFirst :
    let ok := fun (s : State) (n b : Nat) => b = s.budget + (s.acc + n) / s.cfg.clkPerBit ∧ s.obf = false ∧ 11 ≤ b
    let sq := { s0 with q := [0x55#8] }
    let sw := latchData 0xED#8 (.ch .c0) { s0 with q := [0x55#8] }
    let se := { s0With 0x63#8 with offers0 := [0xF0#8] }
    (ok sq 11 11 ∧ fill (accrue 11 sq) = (.produced, (fill (accrue 11 sq)).2) ∧ 11 < 23)
      ∧ (ok sw 22 22 ∧ fill (accrue 22 sw) = (.produced, (fill (accrue 22 sw)).2) ∧ 22 < 23)
      ∧ (ok sq 23 23 ∧ fill (accrue 23 sq) = (.produced, (fill (accrue 23 sq)).2) ∧ sq.pw = none)
      ∧ (ok (latchCommand 0xAA#8 se) 11 11
        ∧ fill (accrue 11 (latchCommand 0xAA#8 se)) = (.swallowed, (fill (accrue 11 (latchCommand 0xAA#8 se))).2) ∧ 11 < 12)
      ∧ (ok se 23 23 ∧ fill (accrue 23 se) = (.swallowed, (fill (accrue 23 se)).2) ∧ se.pw = none) := by
  refine ⟨⟨by decide, rfl, by decide⟩, ⟨by decide, rfl, by decide⟩, ⟨by decide, rfl, rfl⟩, ⟨by decide, rfl, by decide⟩,
    ⟨by decide, rfl, rfl⟩⟩

/-- A write alone, a read alone, and both in one pass. -/
theorem test_witness_TickSpendsWholeCosts :
    (s0Selftest.pw ≠ none ∧ tick 12 s0Selftest = .next (nextState (tick 12 s0Selftest) s0))
    ∧ (let s := { s0 with q := [0x55#8] };
      s.obf = false ∧ hasSource s = true ∧ tick 11 s = .next (nextState (tick 11 s) s0))
    ∧ tick 23 s0Selftest = .next (nextState (tick 23 s0Selftest) s0) := by
  refine ⟨⟨by decide, rfl⟩, ⟨rfl, rfl, rfl⟩, rfl⟩

theorem test_witness_UnreadByteIsNeverOverwritten :
    let s := { s0Offers with obf := true, outbuf := 0x77#8, q := [0x55#8] }
    s.obf = true ∧ tick 1000 s = .next (nextState (tick 1000 s) s) := by
  refine ⟨rfl, rfl⟩

theorem test_witness_OperationsChangeOnlyTheirFields :
    exec .rddata s0 = .next (executed .rddata s0) ∧ exec (.wrdata 0xED#8) s0 = .next (executed (.wrdata 0xED#8) s0)
      ∧ exec .rdstat s0 = .next (executed .rdstat s0) ∧ exec (.wrcmd 0xAA#8) s0 = .next (executed (.wrcmd 0xAA#8) s0)
      ∧ tick 23 s0Selftest = .next (nextState (tick 23 s0Selftest) s0) := by
  refine ⟨rfl, rfl, rfl, rfl, rfl⟩

/-- V-ENG-6 has two fills and one write in 35 bit-clocks. -/
theorem test_witness_ClockConservation :
    (let s := { s0 with inputs := [.port 0b11#2 0xAA#8, .tick 12, .tick 11, .port 0b00#2 0x00#8, .tick 12] };
      s.cfg.ok ∧ s.acc = 0 ∧ s.budget = 0 ∧ services 5 s = (2, 1) ∧ masterCycles (s.inputs.take 5) = 35) := by decide

theorem test_witness_DevicesChangeOnlyTheirOffers :
    (let s := { s0 with inputs := [.offer .c0 0x1C#8] };
      s.standard ∧ s.inputs = .offer .c0 0x1C#8 :: [])
    ∧ (let s := { s0 with inputs := [.offer .c1 0x08#8] };
      s.standard ∧ s.inputs = .offer .c1 0x08#8 :: [])
    ∧ (let s := { s0Offers with inputs := [.setOffers .c0 []] };
      s.standard ∧ s.inputs = .setOffers .c0 [] :: [])
    ∧ (let s := { s0Offers with inputs := [.setOffers .c1 [0xF0#8, 0x1C#8]] };
      s.standard ∧ s.inputs = .setOffers .c1 [0xF0#8, 0x1C#8] :: []) := by decide

theorem test_witness_ParametersNeverChange :
    step { s0 with inputs := [.reset] } = .next (stepped .reset s0) := rfl

theorem test_witness_ResetRestoresEveryVariable :
    let s := { s0Selftest with obf := true, inputs := [.reset, .tick 12] }
    s.standard ∧ s.inputs = .reset :: [.tick 12] := by decide

theorem test_witness_StepKeepsTheStateInvariant :
    s0.inv ∧ s0Selftest.inv ∧ step { s0Selftest with inputs := [.tick 23] } = .next (stepped (.tick 23) s0Selftest) := by
  refine ⟨by decide, by decide, rfl⟩

theorem test_witness_ResetMeetsTheStateInvariant : testCfg.ok ∧ Config.board.ok := by decide

theorem test_witness_StepRunsTheNextTick :
    let s := { s0Selftest with inputs := [.tick 12, .reset] }
    s.standard ∧ s.inputs = .tick 12 :: [.reset] := by decide

/-- The hypotheses of `TickServicesTheLatchedWrite` on a state with a write latched, no source and 12 or 22 bit-clocks. -/
theorem test_witness_TickServicesTheLatchedWrite :
    let ok := fun (s : State) (n b : Nat) (k : PendingWrite) =>
      b = s.budget + (s.acc + n) / s.cfg.clkPerBit ∧ s.pw = some k ∧ 12 ≤ b
    (∀ k ∈ [PendingWrite.ch .c0, .ch .c1, .command, .sim .c0, .sim .c1, .outportwr, .ramwr 0, .ramwr 286, .security],
        ok (latchData 0x5A#8 k s0) 12 12 k ∧ ok (latchData 0x5A#8 k s0) 22 22 k ∧ hasSource (latchData 0x5A#8 k s0) = false
          ∧ ok (latchData 0x5A#8 k { s0 with obf := true, q := [0x55#8] }) 12 12 k)
      ∧ (22 : Nat) < 23 := by decide

/-- The same with a fill that swallows a prefix, with 12 bit-clocks and with 23. -/
theorem test_witness_TickServicesTheLatchedWrite_swallowed :
    let s := latchData 0x5A#8 .security { s0With 0x63#8 with offers0 := [0xF0#8] }
    s.pw = some .security ∧ s.obf = false ∧ 12 = s.budget + (s.acc + 12) / s.cfg.clkPerBit
      ∧ 23 = s.budget + (s.acc + 23) / s.cfg.clkPerBit
      ∧ fill (accrue 12 s) = (.swallowed, (fill (accrue 12 s)).2)
      ∧ fill (accrue 23 s) = (.swallowed, (fill (accrue 23 s)).2) := by
  refine ⟨rfl, rfl, rfl, rfl, rfl, rfl⟩

/-- V-ENG-9, V-ENG-4; a write that injects a prefix under translation; and a write after which there is nothing to fill. -/
theorem test_witness_TickServesBothDirections :
    let ok := fun (s : State) (n b : Nat) (k : PendingWrite) =>
      b = s.budget + (s.acc + n) / s.cfg.clkPerBit ∧ s.obf = false ∧ s.pw = some k ∧ 23 ≤ b
    let r := latchData 0xED#8 (.ch .c0) { s0 with q := [0x55#8] }
    let w := fun (s : State) => { serviced (accrue 23 s) with budget := 11 }
    let i := latchData 0xF0#8 (.sim .c0) (s0With 0x63#8)
    let e := latchCommand 0xE5#8 s0
    (ok r 23 23 (.ch .c0) ∧ fill (accrue 23 r) = (.produced, (fill (accrue 23 r)).2))
      ∧ (ok s0Selftest 23 23 .command ∧ hasSource s0Selftest = false
        ∧ serviceWrite (accrue 23 s0Selftest) = .next (serviced (accrue 23 s0Selftest))
        ∧ fill (w s0Selftest) = (.produced, (fill (w s0Selftest)).2))
      ∧ (ok i 23 23 (.sim .c0) ∧ hasSource i = false ∧ serviceWrite (accrue 23 i) = .next (serviced (accrue 23 i))
        ∧ fill (w i) = (.swallowed, (fill (w i)).2))
      ∧ (ok e 23 23 .command ∧ hasSource e = false ∧ serviceWrite (accrue 23 e) = .next (serviced (accrue 23 e))
        ∧ fill (w e) = (.nothing, (fill (w e)).2)) := by
  refine ⟨⟨by decide, rfl⟩, ⟨by decide, rfl, rfl, rfl⟩, ⟨by decide, rfl, rfl, rfl⟩, ⟨by decide, rfl, rfl, rfl⟩⟩

end Sys2Proof.Tests
end

section
/-! What one step does with the environment's list of operations (R11), said once: every statement about a step on a given
operation goes through `step_of_inputs_nil` and `step_of_inputs_cons`. -/

namespace Sys2Proof.Machine

/-! ### The step -/

/-- R134: outside the refused configuration a step takes the next operation. -/
theorem step_of_standard {s : State} (hstd : s.standard) : step s = runNext s := by
  rw [step, stepOp, hstd]

/-- R11: the block never acts except inside an operation issued to it. -/
theorem runNext_of_inputs_nil {s : State} (hin : s.inputs = []) : runNext s = .next s := by
  rw [runNext, hin]

/-- R11: the first operation of the list is taken and carried out, and nothing is done around it. -/
theorem runNext_of_inputs_cons {s : State} {op : Op} {rest : List Op} (hin : s.inputs = op :: rest) :
    runNext s = runOp op { s with inputs := rest } := by
  rw [runNext, hin]

theorem step_of_inputs_nil {s : State} (hstd : s.standard) (hin : s.inputs = []) : step s = .next s :=
  (step_of_standard hstd).trans (runNext_of_inputs_nil hin)

theorem step_of_inputs_cons {s : State} {op : Op} {rest : List Op} (hstd : s.standard) (hin : s.inputs = op :: rest) :
    step s = runOp op { s with inputs := rest } :=
  (step_of_standard hstd).trans (runNext_of_inputs_cons hin)

/-! ### One operation of the environment -/

@[simp] theorem runOp_port (p : BitVec 2) (din : Byte) (s : State) : runOp (.port p din) s = exec (decodePort p din) s := rfl

@[simp] theorem runOp_tick (n : Nat) (s : State) : runOp (.tick n) s = tick n s := rfl

/-! ### The statements -/

/-- Settles O5: the operation taken is the bus transaction, and carrying it out is `exec` of what it decodes to. -/
theorem stepRunsTheDecodedPortOperation : Obligations.StepRunsTheDecodedPortOperation := by
  intro s p din rest hstd hin
  calc step s = runOp (.port p din) { s with inputs := rest } := step_of_inputs_cons hstd hin
    _ = exec (decodePort p din) { s with inputs := rest } := runOp_port p din _

/-- Settles O7: with an empty list there is no operation to take. -/
theorem noOperationChangesNothing : Obligations.NoOperationChangesNothing :=
  fun _ hstd hin => step_of_inputs_nil hstd hin

/-- Settles O58: the operation taken is the `TICK`, and carrying it out is that `TICK`. -/
theorem stepRunsTheNextTick : Obligations.StepRunsTheNextTick := by
  intro s n rest hstd hin
  calc step s = runOp (.tick n) { s with inputs := rest } := step_of_inputs_cons hstd hin
    _ = tick n { s with inputs := rest } := runOp_tick n _

end Sys2Proof.Machine
end

section
/-! What holds across a step because every part of a step keeps it, said once; and what the instructions leave unchanged. -/

namespace Sys2Proof.Machine

/-! ### The parts of a step -/

/-- A relation between states that each part of a step keeps: taking the operation from the list, an instruction, the accrual,
the two services of a pass, the budget spent, a RESET and a device's offers. -/
structure KeptByStepParts (R : State → State → Prop) : Prop where
  refl : ∀ s, R s s
  trans : ∀ s t u, R s t → R t u → R s u
  inputs : ∀ s rest, R s { s with inputs := rest }
  exec : ∀ i s t, exec i s = .next t → R s t
  accrue : ∀ n s, R s (accrue n s)
  read : ∀ f s, R s (readAttempt f s).2.1
  write : ∀ s t, serviceWrite s = .next t → R s t
  budget : ∀ s n, R s { s with budget := n }
  reset : ∀ s, R s (resetOp s)
  offers : ∀ s c bs, R s (s.setOffers c bs)

/-- R171 to R173: such a relation holds across a `TICK`. -/
theorem KeptByStepParts.tick {R : State → State → Prop} (hR : KeptByStepParts R) {n : Nat} {s t : State}
    (h : tick n s = .next t) : R s t :=
  hR.trans _ _ _ (hR.accrue n s)
    (pass_rel R hR.refl hR.trans (fun u => hR.budget u 0) hR.read
      (fun u v _ _ hv => hR.trans _ _ _ (hR.write u v hv) (hR.budget v _)) _ _ h)

/-- R10, R11: such a relation holds across each operation of the environment. -/
theorem KeptByStepParts.runOp {R : State → State → Prop} (hR : KeptByStepParts R) {op : Op} {s t : State}
    (h : runOp op s = .next t) : R s t := by
  cases op with
  | port p din => exact hR.exec _ _ _ h
  | tick n => exact hR.tick h
  | reset => cases h; exact hR.reset s
  | offer c b => cases h; exact hR.offers s c _
  | setOffers c bs => cases h; exact hR.offers s c bs

/-- R11: such a relation holds across a step. -/
theorem KeptByStepParts.step {R : State → State → Prop} (hR : KeptByStepParts R) {s t : State} (h : step s = .next t) :
    R s t := by
  rcases hsec : s.cfg.security with _ | _
  · rcases hin : s.inputs with _ | ⟨op, rest⟩
    · rw [step_of_inputs_nil hsec hin] at h
      cases h
      exact hR.refl s
    · rw [step_of_inputs_cons hsec hin] at h
      exact hR.trans _ _ _ (hR.inputs s rest) (hR.runOp h)
  · simp [Machine.step, stepOp, hsec] at h

/-! ### What the instructions leave unchanged -/

/-- R211: a data write while one is latched is dropped; else it is latched with the kind its redirection gives. -/
theorem execWrdata_cases {v : Byte} {s t : State} (h : execWrdata v s = .next t) :
    (s.pw ≠ none ∧ t = s) ∨ (s.pw = none ∧ t = latchData v (redirect s).1 (redirect s).2) := by
  rcases hpw : s.pw with _ | k <;> simp only [execWrdata, hpw, Host.Outcome.next.injEq] at h
  · exact .inr ⟨rfl, h.symm⟩
  · exact .inl ⟨by simp, h.symm⟩

/-- R213: a command write while one is latched is dropped; else it is latched. -/
theorem execWrcmd_cases {v : Byte} {s t : State} (h : execWrcmd v s = .next t) :
    (s.pw ≠ none ∧ t = s) ∨ (s.pw = none ∧ t = latchCommand v s) := by
  rcases hpw : s.pw with _ | k <;> simp only [execWrcmd, hpw, Host.Outcome.next.injEq] at h
  · exact .inr ⟨rfl, h.symm⟩
  · exact .inl ⟨by simp, h.symm⟩

/-- R210: a data read of an empty buffer only shows it; of a full one it also empties it and lowers both lines. -/
theorem execRddata_cases {s t : State} (h : execRddata s = .next t) :
    (s.obf = false ∧ t = { s with dout := s.outbuf })
      ∨ (s.obf = true ∧ t = { lowerIrq .irq12 (lowerIrq .irq1 { s with dout := s.outbuf, obf := false, aux := false })
          with hideObf := false }) := by
  rcases hobf : s.obf with _ | _ <;> simp only [execRddata, hobf] at h <;> cases h
  · exact .inl ⟨rfl, rfl⟩
  · exact .inr ⟨rfl, rfl⟩

/-- R210 to R214: the fields a port operation may change. -/
abbrev SameButPortFields (s t : State) : Prop :=
  t = { s with
    inbuf := t.inbuf, cmd := t.cmd, obf := t.obf, ibf := t.ibf, cmdflag := t.cmdflag, aux := t.aux
    stOverride := t.stOverride, hideObf := t.hideObf, outport := t.outport, pw := t.pw
    armOutport := t.armOutport, armSim0 := t.armSim0, armSim1 := t.armSim1, armAux := t.armAux
    ramWrIdx := t.ramWrIdx, dout := t.dout, trace := t.trace }

/-- R210 to R214: a port operation changes no other field. -/
theorem exec_port_frame {i : Instr} {s t : State} (hi : i.space = .hostport) (h : exec i s = .next t) :
    SameButPortFields s t := by
  cases i with
  | rddata => rcases execRddata_cases h with ⟨_, rfl⟩ | ⟨_, rfl⟩ <;> rfl
  | wrdata v =>
    rcases execWrdata_cases h with ⟨_, rfl⟩ | ⟨_, rfl⟩
    · rfl
    · rw [redirect_frame]
      rfl
  | rdstat => cases h; rfl
  | wrcmd v => rcases execWrcmd_cases h with ⟨_, rfl⟩ | ⟨_, rfl⟩ <;> rfl
  | _ => cases hi

/-- R48: no instruction changes a parameter. -/
theorem exec_cfg {i : Instr} {s t : State} (h : exec i s = .next t) : t.cfg = s.cfg := by
  rcases hi : i.space with _ | _
  · rw [exec_port_frame hi h]
  · rw [exec_command_frame hi h]

/-- R31: every instruction but the five that change a disable bit leaves the RAM. -/
theorem exec_ram {i : Instr} {s t : State} (hi : i ∉ [Instr.dis0, .dis1, .en0, .en1, .selftest]) (h : exec i s = .next t) :
    t.ram = s.ram := by
  cases i with
  | rddata | wrdata _ | rdstat | wrcmd _ => rw [exec_port_frame rfl h]
  | dis0 | dis1 | en0 | en1 | selftest => exact absurd (by decide) hi
  | pwtest | iftest0 | iftest1 =>
    simp only [exec, execPwtest, execIftest0, execIftest1, interfaceTest, respond_eq] at h
    cases h
    rfl
  | rdinp =>
    simp only [exec, execRdinp, respond_eq] at h
    cases h
    split <;> rfl
  | dump =>
    simp only [exec, execDump, qPushAll_eq] at h
    cases h
    rfl
  | pulse m r =>
    simp only [exec, execPulse, requestReset_eq] at h
    cases h
    rfl
  | _ => cases h; rfl

/-- R48: output servicing leaves the parameters. -/
theorem readAttempt_cfg (f : PassFlags) (s : State) : (readAttempt f s).2.1.cfg = s.cfg := by
  rcases readAttempt_cases f s with ⟨v, owner, u, _, _, _, hu, _, hr⟩ | ⟨u, _, hu, _, hr⟩ | hr
  · rw [hr, complete_frame, hu]
  · rw [hr, hu]
  · rw [hr]

/-- R48: the write service leaves the parameters. -/
theorem serviceWrite_cfg {s t : State} (h : serviceWrite s = .next t) : t.cfg = s.cfg := by
  rcases hpw : s.pw with _ | k
  · simp only [serviceWrite, hpw] at h
    cases h
    rfl
  · rw [serviceWrite_frame hpw h]

/-- R48, R101: every part of a step leaves the parameters. -/
theorem cfg_keptByStepParts : KeptByStepParts (fun s t => t.cfg = s.cfg) where
  refl _ := rfl
  trans _ _ _ hst htu := htu.trans hst
  inputs _ _ := rfl
  exec _ _ _ := exec_cfg
  accrue _ _ := rfl
  read := readAttempt_cfg
  write _ _ := serviceWrite_cfg
  budget _ _ := rfl
  reset _ := rfl
  offers := State.setOffers_cfg

/-! ### The statements -/

/-- Settles O25: what a RAM byte reads as depends on the RAM and the parameters, which the instruction leaves. -/
theorem otherInstructionsLeaveTheRam : Obligations.OtherInstructionsLeaveTheRam :=
  fun _ _ _ hi h => State.ramByte_congr (exec_ram hi h) (exec_cfg h)

/-- Settles O53: no part of a step changes a parameter. -/
theorem parametersNeverChange : Obligations.ParametersNeverChange :=
  fun _ _ => cfg_keptByStepParts.step

end Sys2Proof.Machine
end

section
/-! The levels of the interrupt lines after a completion (R197), and the state after a `RESET` (R58, R240). -/

namespace Sys2Proof.Machine

/-! ### The lines after a completion -/

/-- R197, R224: line 1 after a completion. -/
@[simp] theorem complete_irq1 (v : Byte) (owner : Channel) (s : State) :
    (complete v owner s).irq .irq1 = (decide (owner = .c0) && s.intEnabled .c0) := by
  simp only [State.irq, IrqLine.outBit, complete_outport]
  rw [setBit_getLsbD_other _ _ _ _ (by decide), setBit_getLsbD_same _ _ _ (by decide)]

/-- R197, R224: line 12 after a completion. -/
@[simp] theorem complete_irq12 (v : Byte) (owner : Channel) (s : State) :
    (complete v owner s).irq .irq12 = (decide (owner = .c1) && s.intEnabled .c1) := by
  simp only [State.irq, IrqLine.outBit, complete_outport]
  rw [setBit_getLsbD_same _ _ _ (by decide)]

/-- R197: a completion leaves every bit of the output port that is no line. -/
theorem complete_outport_other (v : Byte) (owner : Channel) (s : State) {i : Nat} (h4 : i ≠ 4) (h5 : i ≠ 5) :
    (complete v owner s).outport.getLsbD i = s.outport.getLsbD i := by
  rw [complete_outport, setBit_getLsbD_other _ _ _ _ h5, setBit_getLsbD_other _ _ _ _ h4]

/-- R197, R228: the events of a completion, by the levels it leaves. -/
theorem complete_trace_irq (v : Byte) (owner : Channel) (s : State) :
    (complete v owner s).trace = s.trace ++ [Event.irqLower .irq1, Event.irqLower .irq12]
      ++ (if (complete v owner s).irq .irq1 = true then [Event.irqRaise .irq1] else [])
      ++ (if (complete v owner s).irq .irq12 = true then [Event.irqRaise .irq12] else []) := by
  rw [complete_trace]
  cases owner <;> simp [lineOf]

/-- R190: a produced fill is the completion of some byte, over a state in which at most the sources and the escape changed. -/
theorem fill_produced {s t : State} (h : fill s = (.produced, t)) :
    ∃ v owner u, t = complete v owner u ∧ SameButSources s u := by
  rcases fill_cases s with ⟨v, owner, u, hf, hu⟩ | ⟨u, hf, _, _⟩ | hf <;> rw [hf] at h <;> cases h
  exact ⟨v, owner, u, rfl, hu⟩

/-- Settles O42: a completion arbitrates the lines, and taking its byte left the output port, the RAM and the trace. -/
theorem producedFillArbitratesTheLines : Obligations.ProducedFillArbitratesTheLines := by
  intro s t h
  obtain ⟨v, owner, u, rfl, hu⟩ := fill_produced h
  have hout : u.outport = s.outport := by rw [hu]
  have htrace : u.trace = s.trace := by rw [hu]
  have hint : ∀ c, u.intEnabled c = s.intEnabled c := by
    rw [hu]
    exact fun c => by cases c <;> rfl
  refine ⟨?_, ?_, ?_, fun i h4 h5 => ?_, ?_⟩
  · rw [complete_irq1, hint, complete_aux]
    cases owner <;> rfl
  · rw [complete_irq12, hint, complete_aux]
    rfl
  · rw [complete_irq1, complete_irq12]
    cases owner <;> simp
  · rw [complete_outport_other v owner u h4 h5, hout]
  · rw [complete_trace_irq, htrace]

/-! ### The state after a RESET -/

/-- R240: the events of a `RESET`: the notifications of the channels whose disable bit changes, then the three levels. -/
theorem resetEvents_eq (cfg : Config) (old0 : Byte) :
    resetEvents cfg old0 =
      (if old0.getLsbD 4 ≠ cfg.cfg0Reset.getLsbD 4 ∧ cfg.dev0.hasNotifier = true
          then [Event.devNotify .c0 (if cfg.cfg0Reset.getLsbD 4 then .disable else .enableIrq)] else [])
        ++ (if old0.getLsbD 5 ≠ cfg.cfg0Reset.getLsbD 5 ∧ cfg.dev1.hasNotifier = true
            then [Event.devNotify .c1 (if cfg.cfg0Reset.getLsbD 5 then .disable else .enableIrq)] else [])
        ++ [if cfg.outportReset.getLsbD 4 then Event.irqRaise .irq1 else Event.irqLower .irq1,
            if cfg.outportReset.getLsbD 5 then Event.irqRaise .irq12 else Event.irqLower .irq12,
            Event.a20Set (cfg.outportReset.getLsbD 1)] := rfl

/-- R58: what the RAM reads as after a `RESET`. -/
theorem resetWith_ramByte (cfg : Config) (dout : Byte) (trace : List Event) (offers0 offers1 : List Byte) (inputs : List Op)
    (a : Nat) : (State.resetWith cfg dout trace offers0 offers1 inputs).ramByte a = if a = 0 then cfg.cfg0Reset else 0x00#8 :=
  rfl

theorem resetOp_trace (s : State) : (resetOp s).trace = s.trace ++ resetEvents s.cfg (s.ramByte 0) := rfl

theorem powerUp_trace (cfg : Config) : (State.powerUp cfg).trace = resetEvents cfg 0x00#8 := rfl

/-- R53 to R56: the state after a `RESET` meets the invariant. -/
theorem resetWith_inv {cfg : Config} (hcfg : cfg.ok) (dout : Byte) (trace : List Event) (offers0 offers1 : List Byte)
    (inputs : List Op) : (State.resetWith cfg dout trace offers0 offers1 inputs).inv := by
  have haux : (State.resetWith cfg dout trace offers0 offers1 inputs).auxOk := by simp [State.auxOk, State.resetWith]
  have hpend : (State.resetWith cfg dout trace offers0 offers1 inputs).pendingOk := by simp [State.pendingOk, State.resetWith]
  exact ⟨haux, rfl, hpend, ⟨hcfg, Nat.zero_le _⟩, rfl, rfl⟩

/-- Settles O54: the step is the `RESET`; the variables stand in the reset table, and its events are those of R240. -/
theorem resetRestoresEveryVariable : Obligations.ResetRestoresEveryVariable := by
  intro s rest hstd hin
  refine ⟨resetOp { s with inputs := rest }, step_of_inputs_cons hstd hin, by simp [resetOp, State.resetWith], ?_, ?_,
    rfl, rfl, rfl, rfl, ?_⟩
  · exact resetWith_ramByte ..
  · intro a ha
    rw [resetOp, resetWith_ramByte, if_neg ha]
  · rw [resetOp_trace, resetEvents_eq, List.append_assoc s.trace, List.append_assoc s.trace]
    rfl

/-- Settles O55: the reset table, and the events of R240 with 0x00 as the byte before, which has no disable bit set. -/
theorem powerUpStateIsTheResetTable : Obligations.PowerUpStateIsTheResetTable := by
  intro cfg
  refine ⟨rfl, resetWith_ramByte .., fun a ha => ?_, ?_⟩
  · rw [State.powerUp, resetWith_ramByte, if_neg ha]
  · rw [powerUp_trace, resetEvents_eq]
    cases cfg.cfg0Reset.getLsbD 4 <;> cases cfg.cfg0Reset.getLsbD 5 <;> simp

/-- Settles O57: both are states after a `RESET`, and `Config.board` has a bit-clock of one master cycle. -/
theorem resetMeetsTheStateInvariant : Obligations.ResetMeetsTheStateInvariant :=
  ⟨resetWith_inv (cfg := Config.board) (Nat.le_refl 1) .., fun _ hcfg => resetWith_inv hcfg ..⟩

end Sys2Proof.Machine
end

section
/-! The invariant of the state (R53 to R56) across a step: one rule per kind of update, then the shared operations, the
instructions, the write service and the fill. An update of fields the invariant does not read keeps it as it is. -/

namespace Sys2Proof.Machine

/-! ### The clauses the proofs below use -/

theorem State.inv.pending {s : State} (hs : s.inv) : s.pendingOk := by
  obtain ⟨_, _, hpend, _, _, _⟩ := hs
  exact hpend

theorem State.inv.acc_lt {s : State} (hs : s.inv) : s.acc < s.cfg.clkPerBit := by
  obtain ⟨_, _, _, ⟨hacc, _⟩, _, _⟩ := hs
  exact hacc

theorem State.inv.queue_le {s : State} (hs : s.inv) : s.q.length ≤ s.cfg.queueCap := by
  obtain ⟨_, _, _, ⟨_, hq⟩, _, _⟩ := hs
  exact hq

theorem State.inv.ram_wf {s : State} (hs : s.inv) : Memory.wf s.cfg.cfg0Reset s.ram = true := by
  obtain ⟨_, _, _, _, hram, _⟩ := hs
  exact hram

/-- R8: a bit-clock lasts at least one master cycle, since the accumulator stays below it. -/
theorem State.inv.cfg_ok {s : State} (hs : s.inv) : s.cfg.ok := Nat.one_le_of_lt hs.acc_lt

/-! ### Updates the invariant reads -/

/-- R31: a canonical RAM and any trace. -/
theorem inv_withRam {s : State} (hs : s.inv) {m : Memory} (hm : Memory.wf s.cfg.cfg0Reset m = true) (tr : List Event) :
    ({ s with ram := m, trace := tr } : State).inv := by
  obtain ⟨haux, hibf, hpend, hbounds, _, hhide⟩ := hs
  exact ⟨haux, hibf, hpend, hbounds, hm, hhide⟩

/-- R56: a queue within its capacity. -/
theorem inv_withQueue {s : State} (hs : s.inv) {l : List Byte} (hl : l.length ≤ s.cfg.queueCap) :
    ({ s with q := l } : State).inv := by
  obtain ⟨haux, hibf, hpend, ⟨hacc, _⟩, hram, hhide⟩ := hs
  exact ⟨haux, hibf, hpend, ⟨hacc, hl⟩, hram, hhide⟩

/-- R55: the three pending-access fields, at most one of them set. -/
theorem inv_withPending {s : State} (hs : s.inv) {o : Bool} {r : Option (Fin 32)} {w : Option (Fin 287)}
    (hp : (o = true → r = none ∧ w = none) ∧ (r ≠ none → w = none)) :
    ({ s with rdOutport := o, ramRdIdx := r, ramWrIdx := w } : State).inv := by
  obtain ⟨haux, hibf, _, hbounds, hram, hhide⟩ := hs
  exact ⟨haux, hibf, hp, hbounds, hram, hhide⟩

/-- R47: any budget. -/
theorem inv_withBudget {s : State} (hs : s.inv) (n : Nat) : ({ s with budget := n } : State).inv := hs

/-! ### The shared operations -/

theorem setInj_inv (c : Channel) (v : Option Byte) {s : State} (hs : s.inv) : (s.setInj c v).inv := by
  cases c <;> exact hs

theorem setOffers_inv (c : Channel) (bs : List Byte) {s : State} (hs : s.inv) : (s.setOffers c bs).inv := by
  cases c <;> exact hs

theorem setDis_inv (c : Channel) (b : Bool) (k : NotifyCode) {s : State} (hs : s.inv) : (setDis c b k s).inv := by
  rw [setDis_frame]
  exact inv_withRam hs (setDis_wf c b k s hs.ram_wf) _

theorem qPush_inv (b : Byte) {s : State} (hs : s.inv) : (qPush b s).inv := by
  rw [qPush_eq]
  refine inv_withQueue hs ?_
  split
  · rw [List.length_append]
    exact ‹s.q.length < s.cfg.queueCap›
  · exact hs.queue_le

theorem qPushAll_inv (bs : List Byte) {s : State} (hs : s.inv) : (qPushAll bs s).inv := by
  induction bs generalizing s with
  | nil => exact hs
  | cons b bs ih => exact ih (qPush_inv b hs)

/-- R113: the queue that is left is a part of the queue before. -/
theorem qSkipToLast_inv {s : State} (hs : s.inv) : (qSkipToLast s).inv := by
  rw [qSkipToLast_eq]
  have hle : s.q.getLast?.toList.length ≤ s.q.length := by
    rcases List.eq_nil_or_concat s.q with hnil | ⟨l, b, hcons⟩
    · simp [hnil]
    · simp [hcons]
  exact inv_withQueue hs (hle.trans hs.queue_le)

theorem respond_inv (b : Byte) {s : State} (hs : s.inv) : (respond b s).inv := qSkipToLast_inv (qPush_inv b hs)

theorem requestReset_inv (keep : Bool) {s : State} (hs : s.inv) : (requestReset keep s).inv := by
  rw [requestReset_eq]
  exact hs

theorem ramWrite_inv (i : Fin 287) {s : State} (hs : s.inv) : (ramWrite i s).inv := by
  rw [ramWrite_frame]
  exact inv_withRam hs (ramWrite_wf i s hs.ram_wf) _

/-- R211: a redirection leaves an armed RAM write or consumes it. -/
theorem redirect_ramWrIdx (s : State) : (redirect s).2.ramWrIdx = s.ramWrIdx ∨ (redirect s).2.ramWrIdx = none := by
  unfold redirect
  repeat' split
  all_goals simp

theorem redirect_inv {s : State} (hs : s.inv) : (redirect s).2.inv := by
  obtain ⟨ho, hr⟩ := hs.pending
  rw [redirect_frame]
  refine inv_withPending hs ?_
  rcases redirect_ramWrIdx s with hw | hw <;> rw [hw]
  · exact ⟨ho, hr⟩
  · exact ⟨fun h => ⟨(ho h).1, rfl⟩, fun _ => rfl⟩

/-! ### The latch and the output buffer -/

/-- R54: `ibf` is 1 with a write latched. -/
theorem latchData_inv (v : Byte) (k : PendingWrite) {s : State} (hs : s.inv) : (latchData v k s).inv := by
  obtain ⟨haux, _, hpend, hbounds, hram, hhide⟩ := hs
  exact ⟨haux, rfl, hpend, hbounds, hram, hhide⟩

/-- R54: `ibf` is 1 with a command latched. -/
theorem latchCommand_inv (v : Byte) {s : State} (hs : s.inv) : (latchCommand v s).inv := by
  obtain ⟨haux, _, hpend, hbounds, hram, hhide⟩ := hs
  exact ⟨haux, rfl, hpend, hbounds, hram, hhide⟩

/-- R54: `ibf` is 0 with nothing latched. -/
theorem releaseLatch_inv {s : State} (hs : s.inv) : (releaseLatch s).inv := by
  obtain ⟨haux, _, hpend, hbounds, hram, hhide⟩ := hs
  exact ⟨haux, rfl, hpend, hbounds, hram, hhide⟩

/-- R53: a data read clears `aux` with `obf`. -/
theorem execRddata_inv {s t : State} (hs : s.inv) (h : execRddata s = .next t) : t.inv := by
  rcases execRddata_cases h with ⟨_, rfl⟩ | ⟨_, rfl⟩
  · exact hs
  · obtain ⟨_, hibf, hpend, hbounds, hram, _⟩ := hs
    exact ⟨fun haux => haux, hibf, hpend, hbounds, hram, rfl⟩

/-- R53, R196: a completion sets `obf`. -/
theorem complete_inv (v : Byte) (owner : Channel) {s : State} (hs : s.inv) : (complete v owner s).inv := by
  obtain ⟨_, hibf, hpend, hbounds, hram, hhide⟩ := hs
  rw [complete_frame]
  exact ⟨fun _ => rfl, hibf, hpend, hbounds, hram, hhide⟩

/-! ### The instructions -/

/-- Every instruction keeps the invariant: the channel commands by `setDis_inv`, those that answer by the queue's rules, those
that set a pending access clear the other two, the port operations by the rules of the latch and the output buffer; the rest
change no field the invariant reads. -/
theorem exec_inv {i : Instr} {s t : State} (hs : s.inv) (h : exec i s = .next t) : t.inv := by
  cases i with
  | rddata => exact execRddata_inv hs h
  | wrdata v =>
    rcases execWrdata_cases h with ⟨_, rfl⟩ | ⟨_, rfl⟩
    · exact hs
    · exact latchData_inv v _ (redirect_inv hs)
  | wrcmd v =>
    rcases execWrcmd_cases h with ⟨_, rfl⟩ | ⟨_, rfl⟩
    · exact hs
    · exact latchCommand_inv v hs
  | dis0 | dis1 | en0 | en1 => cases h; exact setDis_inv _ _ _ hs
  | selftest => cases h; exact qPush_inv _ (qPush_inv _ (setDis_inv _ _ _ hs))
  | pwtest | iftest0 | iftest1 => cases h; exact respond_inv _ hs
  | rdinp =>
    cases h
    split
    · exact respond_inv s.inport hs
    · exact respond_inv s.inport hs
  | dump =>
    simp only [exec, execDump, Host.Outcome.next.injEq] at h
    rw [← h]
    exact qPushAll_inv _ hs
  | rdram x n | wrram x n | rdoutp => cases h; exact inv_withPending hs (by simp)
  | pulse m r => cases h; exact requestReset_inv r hs
  | _ => cases h; exact hs

/-! ### The engine -/

/-- R175: the service of each kind of latched write, before the latch is released. -/
theorem serviceKind_inv {k : PendingWrite} {s t : State} (hs : s.inv) (h : serviceKind k s = .next t) : t.inv := by
  cases k with
  | command => exact exec_inv (s := { s with secMode := false }) hs h
  | ch c =>
    simp only [serviceKind, forward_eq] at h
    cases h
    exact hs
  | ramwr i => cases h; exact ramWrite_inv i hs
  | outportwr =>
    simp only [serviceKind, outportWrite_eq] at h
    cases h
    exact hs
  | sim c => cases h; exact setInj_inv c _ hs
  | security =>
    simp only [serviceKind, securityInput_eq] at h
    cases h
    exact hs

/-- R175: nothing is latched and nothing happens, or the kind latched is serviced and the latch released. -/
theorem serviceWrite_cases {s t : State} (h : serviceWrite s = .next t) :
    (s.pw = none ∧ t = s) ∨ ∃ k u, s.pw = some k ∧ serviceKind k s = .next u ∧ t = releaseLatch u := by
  rcases hpw : s.pw with _ | k
  · simp only [serviceWrite, hpw] at h
    cases h
    exact .inl ⟨rfl, rfl⟩
  · rw [serviceWrite_some hpw] at h
    rcases hk : serviceKind k s with u | r | r <;> rw [hk] at h <;> cases h
    exact .inr ⟨k, u, rfl, hk, rfl⟩

theorem serviceWrite_inv {s t : State} (hs : s.inv) (h : serviceWrite s = .next t) : t.inv := by
  rcases serviceWrite_cases h with ⟨_, rfl⟩ | ⟨k, u, _, hu, rfl⟩
  · exact hs
  · exact releaseLatch_inv (serviceKind_inv hs hu)

/-! ### The fill -/

/-- R193: the byte taken leaves a channel's latch or a device's offers, which the invariant does not read. -/
theorem takeByte_inv {s t : State} {c : Channel} {b : Byte} (hs : s.inv) (h : takeByte s c = some (b, t)) : t.inv := by
  rcases takeByte_some h with ⟨_, rfl⟩ | ⟨_, _, rest, _, rfl⟩
  · exact setInj_inv c none hs
  · exact setOffers_inv c rest hs

/-- The state that polling goes on with, where it takes a byte, meets the invariant. -/
def Polled.inv : Polled → Prop
  | .empty => True
  | .escape t => t.inv
  | .byte _ _ t => t.inv

/-- R193, R194: receiving a byte changes at most the escape, which the invariant does not read. -/
theorem receive_inv (c : Channel) (raw : Byte) {s : State} (hs : s.inv) : (receive c raw s).inv := by
  rcases hrec : receive c raw s with _ | t | ⟨d, v, t⟩
  · trivial
  · obtain ⟨_, _, _, rfl⟩ := receive_escape hrec
    exact hs
  · obtain ⟨_, ⟨_, _, _, rfl, _⟩ | ⟨_, rfl, _⟩⟩ := receive_byte hrec
    · exact hs
    · exact hs

theorem pollChannels_inv {s : State} (hs : s.inv) : (pollChannels s).inv := by
  by_cases hempty : pollChannels s = .empty
  · rw [hempty]
    trivial
  · obtain ⟨c, _, raw, u, htake, hrec⟩ := pollIn_found hempty
    rw [pollChannels, hrec]
    exact receive_inv c raw (takeByte_inv hs htake)

theorem fillFromChannels_inv {s t : State} {r : FillResult} (hs : s.inv) (h : fillFromChannels s = (r, t)) : t.inv := by
  have hpoll := pollChannels_inv hs
  unfold fillFromChannels at h
  generalize pollChannels s = p at h hpoll
  rcases p with _ | u | ⟨c, v, u⟩ <;> cases h
  · exact hs
  · exact hpoll
  · exact complete_inv v c hpoll

/-- R190: each path of a fill takes from one source and at most completes. -/
theorem fill_inv {s t : State} {r : FillResult} (hs : s.inv) (h : fill s = (r, t)) : t.inv := by
  obtain ⟨ho, hr⟩ := hs.pending
  by_cases hout : s.rdOutport = true
  · simp only [fill, hout, if_true] at h
    cases h
    exact complete_inv _ _ (inv_withPending hs ⟨nofun, hr⟩)
  rcases hidx : s.ramRdIdx with _ | i
  · rcases hpop : qPop s with _ | ⟨b, u⟩ <;> simp only [fill, hout, hidx, hpop] at h
    · exact fillFromChannels_inv hs h
    · obtain ⟨rest, hq, rfl⟩ := qPop_some hpop
      cases h
      have hlen : rest.length ≤ s.q.length := by simp [hq]
      exact complete_inv _ _ (inv_withQueue hs (hlen.trans hs.queue_le))
  · simp only [fill, hout, hidx] at h
    cases h
    exact complete_inv _ _ (inv_withPending hs ⟨nofun, nofun⟩)

theorem readAttempt_inv (f : PassFlags) {s : State} (hs : s.inv) : (readAttempt f s).2.1.inv := by
  rcases readAttempt_cases f s with ⟨v, owner, u, _, _, _, _, hfill, hr⟩ | ⟨u, _, _, hfill, hr⟩ | hr <;> rw [hr]
  · exact inv_withBudget (fill_inv hs hfill) _
  · exact fill_inv hs hfill
  · exact hs

/-! ### The step -/

/-- R171: the accumulator after the accrual is a remainder by the length of a bit-clock. -/
theorem accrue_inv (n : Nat) {s : State} (hs : s.inv) : (accrue n s).inv := by
  have hclk : 0 < s.cfg.clkPerBit := hs.cfg_ok
  obtain ⟨haux, hibf, hpend, ⟨_, hq⟩, hram, hhide⟩ := hs
  exact ⟨haux, hibf, hpend, ⟨Nat.mod_lt _ hclk, hq⟩, hram, hhide⟩

theorem inv_keptByStepParts : KeptByStepParts (fun s t => s.inv → t.inv) where
  refl _ hs := hs
  trans _ _ _ hst htu hs := htu (hst hs)
  inputs _ _ hs := hs
  exec _ _ _ h hs := exec_inv hs h
  accrue n _ hs := accrue_inv n hs
  read f _ hs := readAttempt_inv f hs
  write _ _ h hs := serviceWrite_inv hs h
  budget _ n hs := inv_withBudget hs n
  reset _ hs := resetWith_inv hs.cfg_ok ..
  offers _ c bs hs := setOffers_inv c bs hs

/-- Settles O56: every part of a step keeps the invariant. -/
theorem stepKeepsTheStateInvariant : Obligations.StepKeepsTheStateInvariant :=
  fun _ _ hs h => inv_keptByStepParts.step h hs

end Sys2Proof.Machine
end

section
/-! A pending RAM read across the write services that come before its fill (R123, R192): what each of those services leaves for
the fill, and what the fill of a RAM read answers. -/

namespace Sys2Proof.Machine

/-! ### The fill of a RAM read -/

/-- R196, R197: a completion leaves every RAM byte. -/
@[simp] theorem complete_ramByte (v : Byte) (owner : Channel) (s : State) (a : Nat) :
    (complete v owner s).ramByte a = s.ramByte a := by
  rw [complete_frame]
  rfl

/-- R123, R192: with no read of the output port before it, a pending RAM read gives the byte as it stands at the fill, and the
fill leaves every RAM byte. -/
theorem fill_ramRead {s : State} {i : Fin 32} (hout : s.rdOutport = false) (hidx : s.ramRdIdx = some i) :
    ∃ t, fill s = (.produced, t) ∧ t.outbuf = s.ramByte i.val ∧ ∀ a, t.ramByte a = s.ramByte a := by
  refine ⟨complete (s.ramByte i.val) .c0 { s with ramRdIdx := none }, ?_, complete_outbuf .., complete_ramByte _ _ _⟩
  simp [fill, hout, hidx]

/-! ### The services before it -/

/-- R175: with a write latched, its kind is serviced and the latch released. -/
theorem serviceWrite_latched {s t : State} {k : PendingWrite} (hpw : s.pw = some k) (h : serviceWrite s = .next t) :
    ∃ u, serviceKind k s = .next u ∧ t = releaseLatch u := by
  rcases serviceWrite_cases h with ⟨hnone, _⟩ | ⟨k', u, hk', hu, ht⟩
  · cases hpw.symm.trans hnone
  · cases hpw.symm.trans hk'
    exact ⟨u, hu, ht⟩

/-- R175, R177: the service of a RAM write inside the RAM stores the byte and releases the latch. -/
theorem serviceWrite_ramwr_in {s t : State} {i : Fin 287} (hram : s.ramOk) (hpw : s.pw = some (.ramwr i))
    (hi : i.val < ramSize) (h : serviceWrite s = .next t) : t.pw = none ∧ t.ramByte i.val = s.inbuf := by
  obtain ⟨u, hu, rfl⟩ := serviceWrite_latched hpw h
  cases hu
  exact ⟨rfl, ramWrite_ramByte_same i s hi hram⟩

/-- R121, R175: the service of an `RDRAM` whose index is in range leaves a read of that index pending and every RAM byte as it
was. -/
theorem serviceWrite_rdram_in {s t : State} {x : Bool} {n : BitVec 5} {i : Fin 32} (hpw : s.pw = some .command)
    (hcmd : decodeCommand s.cmd = .rdram x n) (hi : (s.ramIdx n).val = i.val) (h : serviceWrite s = .next t) :
    t.rdOutport = false ∧ t.ramRdIdx = some i ∧ ∀ a, t.ramByte a = s.ramByte a := by
  obtain ⟨u, hu, rfl⟩ := serviceWrite_latched hpw h
  rw [serviceKind, serviceCommand, hcmd] at hu
  cases hu
  have hlt : (s.ramIdx n).val < 32 := hi ▸ i.isLt
  have hpend : inRange (s.ramIdx n) = some i := by rw [inRange_lt _ hlt, Option.some.injEq, Fin.ext_iff, hi]
  exact ⟨rfl, hpend, fun _ => rfl⟩

/-- The commands that set or clear a disable bit, each with the bit and the value it gives it (R140, R141, R143, R146, R147). -/
def disableBitCommands : List (Instr × Nat × Bool) :=
  [(.dis0, 4, true), (.dis1, 5, true), (.en0, 4, false), (.en1, 5, false), (.selftest, 4, true)]

/-- R140, R141, R143, R146, R147: each is `SetDis` of its bit, `SELFTEST` with two pushes after it. -/
theorem exec_disableBitCommand {i : Instr} {bit : Nat} {b : Bool} {s t : State} (hi : (i, bit, b) ∈ disableBitCommands)
    (h : exec i s = .next t) : ∃ c q, bit = disBit c ∧ t = { setDis c b .enableNoIrq s with q := q } := by
  simp only [disableBitCommands, List.mem_cons, Prod.mk.injEq, List.not_mem_nil, or_false] at hi
  rcases hi with ⟨rfl, rfl, rfl⟩ | ⟨rfl, rfl, rfl⟩ | ⟨rfl, rfl, rfl⟩ | ⟨rfl, rfl, rfl⟩ | ⟨rfl, rfl, rfl⟩ <;> cases h
  · exact ⟨.c0, _, rfl, rfl⟩
  · exact ⟨.c1, _, rfl, rfl⟩
  · exact ⟨.c0, _, rfl, rfl⟩
  · exact ⟨.c1, _, rfl, rfl⟩
  · exact ⟨.c0, _, rfl, by rw [qPush_eq, qPush_eq]⟩

/-- R103, R175: the service of such a command gives the bit its value in the configuration byte and leaves the pending reads. -/
theorem serviceWrite_disableBitCommand {s t : State} {bit : Nat} {b : Bool} (hram : s.ramOk) (hpw : s.pw = some .command)
    (hcmd : (decodeCommand s.cmd, bit, b) ∈ disableBitCommands) (h : serviceWrite s = .next t) :
    t.rdOutport = s.rdOutport ∧ t.ramRdIdx = s.ramRdIdx ∧ t.ramByte 0 = setBit (s.ramByte 0) bit b ∧ bit < 8 := by
  obtain ⟨u, hu, rfl⟩ := serviceWrite_latched hpw h
  obtain ⟨c, q, rfl, rfl⟩ := exec_disableBitCommand hcmd hu
  have hbyte := setDis_ramByte_zero c b .enableNoIrq { s with secMode := false } hram
  refine ⟨?_, ?_, hbyte, disBit_lt c⟩ <;> rw [setDis_frame] <;> rfl

/-! ### The statement -/

/-- R68, R123: the byte a serviced RAM write stored is the one an `RDRAM` of its index gives, and it stays in the RAM. -/
theorem fill_after_ramwr_rdram {s t t1 u : State} {i : Fin 287} {c : Byte} {x : Bool} {n : BitVec 5} (hram : s.ramOk)
    (hpw : s.pw = some (.ramwr i)) (hi : i.val ≤ 31) (hst : serviceWrite s = .next t) (hc : decodeCommand c = .rdram x n)
    (hidx : n.toNat + (t.ramByte 0x0B).toNat = i.val) (hwr : exec (.wrcmd c) t = .next t1)
    (hsu : serviceWrite t1 = .next u) :
    ∃ v, fill u = (.produced, v) ∧ v.outbuf = s.inbuf ∧ v.ramByte i.val = s.inbuf := by
  have hlt : i.val < ramSize := Nat.lt_succ_of_le hi
  obtain ⟨hfree, hstored⟩ := serviceWrite_ramwr_in hram hpw hlt hst
  rcases execWrcmd_cases hwr with ⟨hbusy, _⟩ | ⟨_, rfl⟩
  · exact absurd hfree hbusy
  have hval : ((latchCommand c t).ramIdx n).val = i.val := hidx
  obtain ⟨hout, hpend, hkept⟩ := serviceWrite_rdram_in (i := ⟨i.val, hlt⟩) (latchCommand_pw t c) hc hval hsu
  obtain ⟨v, hfill, hbuf, hleft⟩ := fill_ramRead hout hpend
  have hbyte : u.ramByte i.val = s.inbuf := (hkept i.val).trans hstored
  exact ⟨v, hfill, hbuf.trans hbyte, (hleft i.val).trans hbyte⟩

/-- R68, R192: a pending read of the configuration byte gives it with the bit of the command serviced in between. -/
theorem fill_after_disableBitCommand {s t : State} {bit : Nat} {b : Bool} (hram : s.ramOk) (hout : s.rdOutport = false)
    (hidx : s.ramRdIdx = some 0) (hpw : s.pw = some .command) (hcmd : (decodeCommand s.cmd, bit, b) ∈ disableBitCommands)
    (hst : serviceWrite s = .next t) :
    ∃ u, fill t = (.produced, u) ∧ (∀ j, u.outbuf.getLsbD j = if j = bit then b else (s.ramByte 0).getLsbD j)
      ∧ u.ramByte 0 = u.outbuf := by
  obtain ⟨hout', hidx', hbyte, hbit⟩ := serviceWrite_disableBitCommand hram hpw hcmd hst
  obtain ⟨u, hfill, hbuf, hleft⟩ := fill_ramRead (hout'.trans hout) (hidx'.trans hidx)
  refine ⟨u, hfill, fun j => ?_, (hleft 0).trans hbuf.symm⟩
  rw [hbuf.trans hbyte]
  by_cases hj : j = bit
  · rw [if_pos hj, hj, setBit_getLsbD_same _ _ _ hbit]
  · rw [if_neg hj, setBit_getLsbD_other _ _ _ _ hj]

/-- Settles O45: a fill reads the RAM when it is made, so it sees what the services before it stored. -/
theorem ramWriteThenPendingReadGivesTheByte : Obligations.RamWriteThenPendingReadGivesTheByte :=
  ⟨fun _ _ _ _ _ _ _ _ => fill_after_ramwr_rdram, fun _ _ _ _ => fill_after_disableBitCommand⟩

end Sys2Proof.Machine
end

section
/-! The encoding (R80 to R84, R93): the operand fields of an encoded byte, the row of the table a byte stands in, and the round
trip both ways. A well-formed command is the decoding of exactly its own byte (`decodeCommand_of_encode`, `encode_decodeCommand`);
the statements about command bytes are uses of that. -/

namespace Sys2Proof

/-! ### The fields of an encoded byte -/

/-- R82: bit 7, `w`, `x` and `n` of a byte of format `RAM`. -/
theorem encodeRam_parts (w x : Bool) (n : BitVec 5) :
    (encodeRam w x n).getLsbD 7 = false ∧ (encodeRam w x n).getLsbD 6 = w ∧ (encodeRam w x n).getLsbD 5 = x
      ∧ (encodeRam w x n).extractLsb' 0 5 = n := by
  revert w x n
  decide

/-- R83: the bits 7:4, `m` and `r` of a byte of format `PULSE`. -/
theorem encodePulse_parts (m : BitVec 3) (r : Bool) :
    (encodePulse m r).extractLsb' 4 4 = 0xF#4 ∧ (encodePulse m r).extractLsb' 1 3 = m
      ∧ (encodePulse m r).getLsbD 0 = r := by
  revert m r
  decide

/-- R82: a byte with bit 7 clear is the `RAM` encoding of its own fields. -/
theorem encodeRam_fields {v : Byte} (h7 : v.getLsbD 7 = false) :
    encodeRam (v.getLsbD 6) (v.getLsbD 5) (v.extractLsb' 0 5) = v := by
  revert v
  decide

/-- R83: a byte with the high nibble 0xF is the `PULSE` encoding of its own fields. -/
theorem encodePulse_fields {v : Byte} (hF : v.extractLsb' 4 4 = 0xF#4) :
    encodePulse (v.extractLsb' 1 3) (v.getLsbD 0) = v := by
  revert v
  decide

/-! ### The formats -/

theorem bit7_of_high {v : Byte} (hF : v.extractLsb' 4 4 = 0xF#4) : v.getLsbD 7 = true := by
  simpa using congrArg (·.getLsbD 3) hF

/-- R82: bits 7:6 are 00. -/
theorem decodeCommand_rdram {v : Byte} (h7 : v.getLsbD 7 = false) (h6 : v.getLsbD 6 = false) :
    decodeCommand v = .rdram (v.getLsbD 5) (v.extractLsb' 0 5) := by
  simp only [decodeCommand, h7, h6, Bool.false_eq_true, if_false]

/-- R82: bits 7:6 are 01. -/
theorem decodeCommand_wrram {v : Byte} (h7 : v.getLsbD 7 = false) (h6 : v.getLsbD 6 = true) :
    decodeCommand v = .wrram (v.getLsbD 5) (v.extractLsb' 0 5) := by
  simp only [decodeCommand, h7, h6, Bool.false_eq_true, if_false, if_true]

/-- R83: bits 7:4 are 1111. -/
theorem decodeCommand_pulse {v : Byte} (hF : v.extractLsb' 4 4 = 0xF#4) :
    decodeCommand v = .pulse (v.extractLsb' 1 3) (v.getLsbD 0) := by
  simp only [decodeCommand, bit7_of_high hF, hF, if_true]

/-- R84: every other byte. -/
theorem decodeCommand_fixed {v : Byte} (h7 : v.getLsbD 7 = true) (hF : v.extractLsb' 4 4 ≠ 0xF#4) :
    decodeCommand v = decodeFixed v := by
  simp only [decodeCommand, h7, hF, if_true, if_false]

/-- R84, R93: a row of format `FIXED` decodes and encodes its instruction. -/
theorem fixedRows_roundtrip : ∀ r ∈ fixedRows, decodeCommand r.1 = r.2 ∧ encode r.2 = [r.1] ∧ r.2.wf = true := by
  decide

theorem mem_fixedRows_of_lookup {v : Byte} {i : Instr} (h : fixedRows.lookup v = some i) : (v, i) ∈ fixedRows := by
  obtain ⟨before, after, hsplit, _⟩ := List.lookup_eq_some_iff.1 h
  rw [hsplit]
  exact List.mem_append_right before List.mem_cons_self

/-- R93, R94: the unassigned opcodes are the bytes of format `FIXED` that no row assigns. -/
theorem unassigned_iff (v : Byte) :
    unassigned v = true ↔ v.getLsbD 7 = true ∧ v.extractLsb' 4 4 ≠ 0xF#4 ∧ fixedRows.lookup v = none := by
  revert v
  decide

theorem decodeCommand_unassigned {v : Byte} (hv : unassigned v = true) : decodeCommand v = .undef v := by
  obtain ⟨h7, hF, hrow⟩ := (unassigned_iff v).1 hv
  rw [decodeCommand_fixed h7 hF, decodeFixed, hrow]

/-! ### The round trip of a command -/

theorem encode_command {i : Instr} (hi : i.space = .command) : ∃ v, encode i = [v] := by
  cases i with
  | rddata | wrdata _ | rdstat | wrcmd _ => cases hi
  | _ => exact ⟨_, rfl⟩

/-- R81 to R84, R94: the byte of a well-formed command decodes to it. -/
theorem decodeCommand_of_encode {i : Instr} {v : Byte} (hwf : i.wf = true) (hi : i.space = .command) (he : encode i = [v]) :
    decodeCommand v = i := by
  cases i with
  | rddata | wrdata _ | rdstat | wrcmd _ => cases hi
  | rdram x n =>
    obtain ⟨h7, h6, hx, hn⟩ := encodeRam_parts false x n
    cases he
    rw [decodeCommand_rdram h7 h6, hx, hn]
  | wrram x n =>
    obtain ⟨h7, h6, hx, hn⟩ := encodeRam_parts true x n
    cases he
    rw [decodeCommand_wrram h7 h6, hx, hn]
  | pulse m r =>
    obtain ⟨hF, hm, hr⟩ := encodePulse_parts m r
    cases he
    rw [decodeCommand_pulse hF, hm, hr]
  | undef op => cases he; exact decodeCommand_unassigned hwf
  | _ => cases he; exact (fixedRows_roundtrip (_, _) (by decide)).1

/-- R81 to R84, R93, R94: every byte is the encoding of the well-formed command it decodes to. -/
theorem encode_decodeCommand (v : Byte) : (decodeCommand v).wf = true ∧ encode (decodeCommand v) = [v] := by
  rcases h7 : v.getLsbD 7 with _ | _
  · have hv := encodeRam_fields h7
    rcases h6 : v.getLsbD 6 with _ | _ <;> rw [h6] at hv
    · rw [decodeCommand_rdram h7 h6, encode, hv]
      exact ⟨rfl, rfl⟩
    · rw [decodeCommand_wrram h7 h6, encode, hv]
      exact ⟨rfl, rfl⟩
  · by_cases hF : v.extractLsb' 4 4 = 0xF#4
    · rw [decodeCommand_pulse hF, encode, encodePulse_fields hF]
      exact ⟨rfl, rfl⟩
    · rcases hrow : fixedRows.lookup v with _ | i
      · have hv : unassigned v = true := (unassigned_iff v).2 ⟨h7, hF, hrow⟩
        rw [decodeCommand_unassigned hv]
        exact ⟨hv, rfl⟩
      · obtain ⟨_, henc, hwf⟩ := fixedRows_roundtrip (v, i) (mem_fixedRows_of_lookup hrow)
        rw [decodeCommand_fixed h7 hF, decodeFixed, hrow]
        exact ⟨hwf, henc⟩

/-! ### The rows -/

/-- R93: the byte of a command has the match of its row under the row's mask. -/
theorem encode_matches_row {i : Instr} {v : Byte} (hi : i.space = .command) (he : encode i = [v]) :
    v &&& (rowOf i).1 = (rowOf i).2 := by
  cases i with
  | rddata | wrdata _ | rdstat | wrcmd _ => cases hi
  | rdram x n => cases he; exact Laws.encodeRam_row false x n
  | wrram x n => cases he; exact Laws.encodeRam_row true x n
  | pulse m r => cases he; exact Laws.encodePulse_row m r
  | _ => cases he; exact Laws.and_all _

/-- R82: the match of a row of format `RAM` fixes bits 7 and 6. -/
theorem ramRow_bits {v : Byte} {w : Bool} (h : v &&& 0xC0#8 = if w then 0x40#8 else 0x00#8) :
    v.getLsbD 7 = false ∧ v.getLsbD 6 = w := by
  revert v w
  decide

/-- R83: the match of the row of format `PULSE` fixes the high nibble. -/
theorem pulseRow_high {v : Byte} (h : v &&& 0xF0#8 = 0xF0#8) : v.extractLsb' 4 4 = 0xF#4 := by
  revert v
  decide

/-- R93: a byte with the match of a command's row decodes to an instruction of that row: the three rows with operands fix the
bits that choose the format, and every other row fixes the whole byte. -/
theorem rowOf_decodeCommand_of_match {i : Instr} {v : Byte} (hwf : i.wf = true) (hi : i.space = .command)
    (hv : v &&& (rowOf i).1 = (rowOf i).2) : rowOf (decodeCommand v) = rowOf i := by
  cases i with
  | rddata | wrdata _ | rdstat | wrcmd _ => cases hi
  | rdram x n =>
    obtain ⟨h7, h6⟩ := ramRow_bits (w := false) hv
    rw [decodeCommand_rdram h7 h6]
    rfl
  | wrram x n =>
    obtain ⟨h7, h6⟩ := ramRow_bits (w := true) hv
    rw [decodeCommand_wrram h7 h6]
    rfl
  | pulse m r =>
    rw [decodeCommand_pulse (pulseRow_high hv)]
    rfl
  | _ =>
    have hbyte : v = _ := (Laws.and_all v).symm.trans hv
    exact congrArg rowOf (decodeCommand_of_encode hwf hi (congrArg (fun b => [b]) hbyte.symm))

/-! ### The statements -/

/-- Settles O1: a port operation is read back from its pattern and the byte it writes, a command from its one byte. -/
theorem decodeOfEncodeIsTheInstruction : Obligations.DecodeOfEncodeIsTheInstruction := by
  intro i rest hwf
  rcases hi : i.space with _ | _
  · cases i with
    | rddata | wrdata v | rdstat | wrcmd v => rfl
    | _ => cases hi
  · obtain ⟨v, he⟩ := encode_command hi
    rw [he, List.singleton_append, decode, decodeCommand_of_encode hwf hi he]

/-- Settles O2, by the format of the byte. -/
theorem everyCommandByteEncodesBack : Obligations.EveryCommandByteEncodesBack := by
  intro v
  obtain ⟨hwf, he⟩ := encode_decodeCommand v
  exact ⟨hwf, Machine.decodeCommand_space v, he⟩

/-- Settles O3: a byte is the encoding of what it decodes to, so it has the match of that row. -/
theorem everyCommandByteMatchesOneRow : Obligations.EveryCommandByteMatchesOneRow := by
  intro v i hwf hi
  constructor
  · exact rowOf_decodeCommand_of_match hwf hi
  · intro hrow
    rw [← hrow]
    exact encode_matches_row (Machine.decodeCommand_space v) (encode_decodeCommand v).2

/-- Settles O4: each of the words is the encoding of its instruction. -/
theorem specWordsDecode : Obligations.SpecWordsDecode :=
  have roundtrip (i : Instr) (hwf : i.wf = true) := decodeOfEncodeIsTheInstruction i [] hwf
  ⟨roundtrip .rddata rfl, roundtrip (.wrdata 0xED#8) rfl, roundtrip .rdstat rfl, roundtrip (.wrcmd 0xAA#8) rfl,
    decodeCommand_of_encode rfl rfl rfl, decodeCommand_of_encode rfl rfl rfl, decodeCommand_of_encode rfl rfl rfl,
    decodeCommand_of_encode rfl rfl rfl, decodeCommand_of_encode rfl rfl rfl⟩

/-- Settles O18: 0xA6 is a row of its own and an unassigned opcode is none; the two bodies answer the state they are given. -/
theorem emptyBodiesChangeNothing : Obligations.EmptyBodiesChangeNothing :=
  ⟨decodeCommand_of_encode rfl rfl rfl, fun _ => decodeCommand_unassigned, fun _ => ⟨rfl, fun _ => rfl⟩⟩

end Sys2Proof
end

section
/-! The status byte bit by bit (R85, R212): the flags, then the override, then the mask. -/

namespace Sys2Proof.Machine

/-! ### The flags and the mask -/

/-- R85: what each bit shows before the override and the mask, bit 0 first. -/
theorem rawStatus_getLsbD (s : State) {i : Nat} (hi : i < 8) :
    (rawStatus s).getLsbD i = [s.obf, s.ibf, false, s.cmdflag, false, s.aux, false, false].getD i false := by
  interval_cases i <;> simp [rawStatus]

/-- R212: the mask clears bit 0. -/
theorem maskStatus_bit0 (hide : Bool) (v : Byte) : (maskStatus hide v).getLsbD 0 = (v.getLsbD 0 && !hide) := by
  cases hide <;> simp [maskStatus]

/-- R212: the mask leaves bits 7:1. -/
theorem maskStatus_above (hide : Bool) (v : Byte) {i : Nat} (hpos : 0 < i) (hi : i < 8) :
    (maskStatus hide v).getLsbD i = v.getLsbD i := by
  cases hide
  · rfl
  · interval_cases i <;> simp [maskStatus]

/-! ### The status byte -/

theorem statusByte_bit0 (s : State) : (statusByte s).getLsbD 0 = (s.obf && !s.hideObf) := by
  rw [statusByte, maskStatus_bit0, overrideStatus_low _ _ 0 (by decide)]
  exact congrArg (· && !s.hideObf) (rawStatus_getLsbD s (by decide))

/-- R212: bits 3:1 show the flags with and without an override. -/
theorem statusByte_low (s : State) {i : Nat} (hpos : 0 < i) (hi : i < 4) :
    (statusByte s).getLsbD i = (rawStatus s).getLsbD i := by
  rw [statusByte, maskStatus_above _ _ hpos (by omega), overrideStatus_low _ _ i hi]

/-- R212: without an override bits 7:1 show the flags. -/
theorem statusByte_above (s : State) (ho : s.stOverride = none) {i : Nat} (hpos : 0 < i) (hi : i < 8) :
    (statusByte s).getLsbD i = (rawStatus s).getLsbD i := by
  rw [statusByte, maskStatus_above _ _ hpos hi, ho, overrideStatus]

/-- R212: with an override bits 7:4 show it. -/
theorem statusByte_override (s : State) {n : Nibble} (ho : s.stOverride = some n) {i : Nat} (hi : i < 4) :
    (statusByte s).getLsbD (4 + i) = n.getLsbD i := by
  rw [statusByte, maskStatus_above _ _ (by omega) (by omega), ho, overrideStatus_high _ _ i hi]

/-- Settles O12: the byte returned is the status byte, read bit by bit. -/
theorem rdstatReturnsTheStatusByte : Obligations.RdstatReturnsTheStatusByte := by
  refine ⟨fun _ => rfl, fun s => ⟨{ s with dout := statusByte s, stOverride := none }, rfl, rfl, statusByte_bit0 s,
    ?ibf, ?zero, ?cmdflag, fun ho => ⟨?_, ?aux, ?_, ?_⟩, fun n ho i hi => statusByte_override s ho hi, fun _ => rfl⟩⟩
  case ibf | zero | cmdflag => exact (statusByte_low s (by decide) (by decide)).trans (rawStatus_getLsbD s (by decide))
  all_goals exact (statusByte_above s ho (by decide) (by decide)).trans (rawStatus_getLsbD s (by decide))

end Sys2Proof.Machine
end

section
/-! The operations of the devices (R98, R109). -/

namespace Sys2Proof.Machine

/-- R98: a step on a device's offer of one more byte puts it behind those the device offers. -/
theorem step_of_offer {s : State} {c : Channel} {b : Byte} {rest : List Op} (hstd : s.standard)
    (hin : s.inputs = .offer c b :: rest) :
    step s = .next (State.setOffers { s with inputs := rest } c (s.offers c ++ [b])) :=
  step_of_inputs_cons hstd hin

/-- R11, R109: a step on a device's change of what it offers replaces it. -/
theorem step_of_setOffers {s : State} {c : Channel} {bs : List Byte} {rest : List Op} (hstd : s.standard)
    (hin : s.inputs = .setOffers c bs :: rest) : step s = .next (State.setOffers { s with inputs := rest } c bs) :=
  step_of_inputs_cons hstd hin

/-- Settles O52: the offers of each channel are a list of their own. -/
theorem devicesChangeOnlyTheirOffers : Obligations.DevicesChangeOnlyTheirOffers :=
  fun _ _ hstd => ⟨fun _ => step_of_offer hstd, fun _ => step_of_offer hstd, fun _ => step_of_setOffers hstd,
    fun _ => step_of_setOffers hstd⟩

end Sys2Proof.Machine
end

section
/-! The channel enable commands: each is `SetDis`, which does nothing the second time (R103). -/

namespace Sys2Proof.Machine

/-! ### `SetDis` twice -/

/-- R103: the disable bit after `SetDis` is the one it was given. -/
theorem setDis_disabled (c : Channel) (b : Bool) (k : NotifyCode) {s : State} (hram : s.ramOk) :
    (setDis c b k s).disabled c = b := by
  rw [State.disabled, setDis_ramByte_zero c b k s hram]
  exact setBit_getLsbD_same _ _ b (disBit_lt c)

/-- R103: the second `SetDis` finds the bit as the first left it. -/
theorem setDis_setDis (c : Channel) (b : Bool) (k : NotifyCode) {s : State} (hram : s.ramOk) :
    setDis c b k (setDis c b k s) = setDis c b k s :=
  setDis_noop c b k _ (setDis_disabled c b k hram)

/-! ### The commands -/

/-- R140, R141, R146, R147: each enable command is `SetDis` of a channel and a value that it alone fixes. -/
theorem exec_enableCommand {i : Instr} (hi : i ∈ [Instr.dis0, .dis1, .en0, .en1]) :
    ∃ c b, ∀ s, exec i s = .next (setDis c b .enableNoIrq s) := by
  simp only [List.mem_cons, List.not_mem_nil, or_false] at hi
  rcases hi with rfl | rfl | rfl | rfl
  · exact ⟨.c0, true, fun _ => rfl⟩
  · exact ⟨.c1, true, fun _ => rfl⟩
  · exact ⟨.c0, false, fun _ => rfl⟩
  · exact ⟨.c1, false, fun _ => rfl⟩

/-- Settles O20: the repetition is a `SetDis` to the value the bit already has. -/
theorem repeatedEnableCommandIsInert : Obligations.RepeatedEnableCommandIsInert := by
  intro s t i hram hi h
  obtain ⟨c, b, hexec⟩ := exec_enableCommand hi
  obtain rfl : setDis c b .enableNoIrq s = t := Host.Outcome.next.inj ((hexec s).symm.trans h)
  rw [hexec, setDis_setDis c b _ hram]

end Sys2Proof.Machine
end

section
/-! The three operations of the Output Queue (R111 to R113), each on the queues its rule tells apart. -/

namespace Sys2Proof.Machine

/-- R111: a push into a queue with a free place appends the byte. -/
theorem qPush_of_lt (b : Byte) {s : State} (hfree : s.q.length < s.cfg.queueCap) :
    qPush b s = { s with q := s.q ++ [b] } := by
  rw [qPush_eq, if_pos hfree]

/-- R111: a push into a full queue is dropped. -/
theorem qPush_of_full (b : Byte) {s : State} (hfull : s.cfg.queueCap ≤ s.q.length) : qPush b s = s := by
  rw [qPush_eq, if_neg (Nat.not_lt.mpr hfull)]

/-- The model's form of a pop that R112 does not define. -/
theorem qPop_of_nil {s : State} (hq : s.q = []) : qPop s = none := by
  rw [qPop, hq]

/-- R112: a pop takes the oldest byte and leaves the others in order. -/
theorem qPop_of_cons {s : State} {b : Byte} {rest : List Byte} (hq : s.q = b :: rest) :
    qPop s = some (b, { s with q := rest }) := by
  rw [qPop, hq]

/-- R113: an empty queue has no newest byte to keep. -/
theorem qSkipToLast_of_nil {s : State} (hq : s.q = []) : qSkipToLast s = s := by
  rw [qSkipToLast, hq, List.getLast?_nil]

/-- R113: the newest byte stays alone, whatever stands before it. -/
theorem qSkipToLast_of_append {s : State} {front : List Byte} {b : Byte} (hq : s.q = front ++ [b]) :
    qSkipToLast s = { s with q := [b] } := by
  rw [qSkipToLast_eq, hq, List.getLast?_concat, Option.toList_some]

/-- Settles O38: a push tells a free place from none, a pop and a skip an empty queue from one with an oldest and a newest byte. -/
theorem queueOperations : Obligations.QueueOperations :=
  fun _ b => ⟨qPush_of_lt b, qPush_of_full b, fun hq => ⟨qPop_of_nil hq, qSkipToLast_of_nil hq⟩, fun _ => qPop_of_cons,
    fun _ => qSkipToLast_of_append⟩

end Sys2Proof.Machine
end

section
/-! The two RAM commands (R120 to R122): the bytes each stands for, and its state after in the fields of the state before. -/

namespace Sys2Proof.Machine

/-- R82: the bytes 00 x n. -/
theorem decodeCommand_rdram_byte (x : Bool) (n : BitVec 5) :
    decodeCommand (0b00#2 ++ BitVec.ofBool x ++ n : BitVec (2 + 1 + 5)) = .rdram x n :=
  decodeCommand_of_encode rfl rfl rfl

/-- R82: the bytes 01 x n. -/
theorem decodeCommand_wrram_byte (x : Bool) (n : BitVec 5) :
    decodeCommand (0b01#2 ++ BitVec.ofBool x ++ n : BitVec (2 + 1 + 5)) = .wrram x n :=
  decodeCommand_of_encode rfl rfl rfl

/-- R121: a RAM read of the index, when it is in range, is the one pending request. -/
theorem exec_rdram (x : Bool) (n : BitVec 5) (s : State) :
    exec (.rdram x n) s = .next { s with rdOutport := false, ramWrIdx := none, ramRdIdx := inRange (s.ramIdx n) } := rfl

/-- R122: an armed RAM write of the index is the one pending request. -/
theorem exec_wrram (x : Bool) (n : BitVec 5) (s : State) :
    exec (.wrram x n) s = .next { s with rdOutport := false, ramRdIdx := none, ramWrIdx := some (s.ramIdx n) } := rfl

/-- R120: the index is not wrapped. -/
theorem State.ramIdx_val (s : State) (n : BitVec 5) : (s.ramIdx n).val = n.toNat + (s.ramByte 0x0B).toNat := ramIndex_val ..

/-- Settles O14: the index is an index of the RAM when it is below 32, and is dropped from 32 on. -/
theorem rdramMakesAnInRangeReadPending : Obligations.RdramMakesAnInRangeReadPending := by
  refine ⟨decodeCommand_rdram_byte, fun s x n => ⟨_, exec_rdram x n s, rfl, fun hle => ?_, fun hgt => ?_, fun _ => rfl⟩⟩
  · have hlt : (s.ramIdx n).val < 32 := Nat.lt_succ_of_le (s.ramIdx_val n ▸ hle)
    exact ⟨⟨(s.ramIdx n).val, hlt⟩, s.ramIdx_val n, inRange_lt _ hlt⟩
  · have hge : 32 ≤ (s.ramIdx n).val := s.ramIdx_val n ▸ hgt
    exact inRange_ge _ hge

/-- Settles O15: the armed index is the sum itself, with no test of its range. -/
theorem wrramArmsAWriteOfEveryIndex : Obligations.WrramArmsAWriteOfEveryIndex :=
  ⟨decodeCommand_wrram_byte, fun s x n => ⟨_, s.ramIdx n, exec_wrram x n s, s.ramIdx_val n, rfl, fun _ => rfl⟩⟩

end Sys2Proof.Machine
end

section
/-! The security commands (R130, R131), the security mode (R133, R180, R211), and the variant no rule describes (R134). -/

namespace Sys2Proof.Machine

/-! ### The refused configuration -/

/-- Settles O8: the step tells the variants apart before it looks at anything else of the state. -/
theorem compaqVariantIsRefused : Obligations.CompaqVariantIsRefused := by
  intro s hsec
  rw [step, stepOp, hsec]

/-! ### The commands -/

/-- R130: `PWTEST` is a one-byte response that shows whether key and sum agree. -/
theorem exec_pwtest (s : State) :
    exec .pwtest s = .next (respond (if s.secKey = s.secSum then s.cfg.secMatch else s.cfg.secNomatch) s) := rfl

/-- R131: `PWLOAD` starts from a sum of zero. -/
theorem exec_pwload (s : State) : exec .pwload s = .next { s with secSum := 0x00#8, secMode := true } := rfl

/-- Settles O16: a one-byte response leaves itself alone in the queue, or the last older byte when the queue was full. -/
theorem pwtestQueuesItsAnswerAlone : Obligations.PwtestQueuesItsAnswerAlone :=
  ⟨decodeCommand_of_encode rfl rfl rfl, fun s => by rw [exec_pwtest, respond_eq]⟩

/-! ### A byte of the accumulation -/

/-- R211: with no write latched, a data write is latched with the kind its redirection gives. -/
theorem exec_wrdata_of_none (v : Byte) {s : State} (hpw : s.pw = none) :
    exec (.wrdata v) s = .next (latchData v (redirect s).1 (redirect s).2) := by
  rw [exec, execWrdata, hpw]

/-- R211: the security mode takes a data write that none of the four arms claims, and clears nothing. -/
theorem redirect_security {s : State} (hmode : s.secMode = true) (hout : s.armOutport = false) (hsim0 : s.armSim0 = false)
    (hsim1 : s.armSim1 = false) (haux : s.armAux = false) : redirect s = (.security, s) := by
  simp [redirect, hmode, hout, hsim0, hsim1, haux]

/-- R175, R180: the service of a byte latched for the accumulator. -/
theorem serviceWrite_security {s : State} (hpw : s.pw = some .security) :
    serviceWrite s = .next (releaseLatch (securityInput s)) :=
  serviceWrite_some hpw

/-- R180: a zero byte commits the sum and ends the mode. -/
theorem securityInput_of_zero {s : State} (hin : s.inbuf = 0x00#8) :
    securityInput s = { s with secKey := s.secSum, secMode := false } :=
  if_pos hin

/-- R180: every other byte is added to the sum. -/
theorem securityInput_of_ne_zero {s : State} (hin : s.inbuf ≠ 0x00#8) :
    securityInput s = { s with secSum := s.secSum + s.inbuf } :=
  if_neg hin

/-- Settles O17: the redirection of a data write in the mode, and the two services of the byte it latches. -/
theorem pwloadAccumulatesUntilAZeroByte : Obligations.PwloadAccumulatesUntilAZeroByte := by
  refine ⟨decodeCommand_of_encode rfl rfl rfl, fun s => ⟨exec_pwload s, ?latch, ?commit, ?add⟩⟩
  case latch =>
    intro v hmode hpw hout hsim0 hsim1 haux
    rw [exec_wrdata_of_none v hpw, redirect_security hmode hout hsim0 hsim1 haux]
    rfl
  case commit =>
    intro hpw hin
    rw [serviceWrite_security hpw, securityInput_of_zero hin]
    rfl
  case add =>
    intro hpw hin
    refine ⟨releaseLatch { s with secSum := s.secSum + s.inbuf }, ?_, rfl, BitVec.toNat_add s.secSum s.inbuf⟩
    rw [serviceWrite_security hpw, securityInput_of_ne_zero hin]

/-! ### The end of the accumulation -/

/-- R43: `PWLOAD` alone writes the security mode or the sum; the port operations and the other commands leave both. -/
theorem exec_secMode_secSum {i : Instr} {s t : State} (hi : i ≠ .pwload) (h : exec i s = .next t) :
    t.secMode = s.secMode ∧ t.secSum = s.secSum := by
  cases i with
  | pwload => exact absurd rfl hi
  | rddata | wrdata _ | rdstat | wrcmd _ =>
    rw [exec_port_frame rfl h]
    exact ⟨rfl, rfl⟩
  | dis0 | dis1 | en0 | en1 =>
    cases h
    rw [setDis_frame]
    exact ⟨rfl, rfl⟩
  | selftest =>
    cases h
    rw [qPush_eq, qPush_eq, setDis_frame]
    exact ⟨rfl, rfl⟩
  | pwtest | iftest0 | iftest1 | dump | pulse _ _ =>
    simp only [exec, execPwtest, execIftest0, execIftest1, interfaceTest, execDump, execPulse, respond_eq, qPushAll_eq,
      requestReset_eq] at h
    cases h
    exact ⟨rfl, rfl⟩
  | rdinp =>
    simp only [exec, execRdinp, respond_eq] at h
    cases h
    split <;> exact ⟨rfl, rfl⟩
  | _ => cases h; exact ⟨rfl, rfl⟩

/-- R43: no command writes the stored key. -/
theorem exec_command_secKey {i : Instr} {s t : State} (hi : i.space = .command) (h : exec i s = .next t) :
    t.secKey = s.secKey := by
  rw [exec_command_frame hi h]

/-- Settles O37: the mode is off when the command's body runs, and the body of no command but `PWLOAD` sets it or the sum. -/
theorem commandServiceEndsTheAccumulation : Obligations.CommandServiceEndsTheAccumulation := by
  intro s t hpw h
  obtain ⟨u, hexec, hserv⟩ := serviceWrite_command hpw
  obtain rfl : releaseLatch u = t := Host.Outcome.next.inj (hserv.symm.trans h)
  have hkey := exec_command_secKey (decodeCommand_space s.cmd) hexec
  exact ⟨hkey, fun hcmd => (exec_secMode_secSum hcmd hexec :)⟩

end Sys2Proof.Machine
end

section
/-! The commands 0xA7 to 0xAE (R140 to R148): each answers `SetDis` of one disable bit, pushes into the queue, or both. -/

namespace Sys2Proof.Machine

/-! ### `SetDis`, bit by bit -/

/-- R103: every bit of the configuration byte after `SetDis`. -/
theorem setDis_ramByte_zero_getLsbD (c : Channel) (b : Bool) (k : NotifyCode) {s : State} (hram : s.ramOk) (j : Nat) :
    ((setDis c b k s).ramByte 0).getLsbD j = if j = disBit c then b else (s.ramByte 0).getLsbD j := by
  rw [setDis_ramByte_zero c b k s hram]
  by_cases hj : j = disBit c
  · rw [if_pos hj, hj, setBit_getLsbD_same _ _ _ (disBit_lt c)]
  · rw [if_neg hj, setBit_getLsbD_other _ _ _ _ hj]

/-- R32: the disable bits are the bits 4 and 5. -/
theorem ne_disBit {j : Nat} (h4 : j ≠ 4) (h5 : j ≠ 5) (c : Channel) : j ≠ disBit c := by
  cases c with
  | c0 => exact h4
  | c1 => exact h5

/-- R103: `SetDis` appends notifications alone to the trace. -/
theorem setDis_trace_notifications (c : Channel) (b : Bool) (k : NotifyCode) (s : State) :
    ∃ l, (setDis c b k s).trace = s.trace ++ l ∧ ∀ e ∈ l, ∃ c' k', e = .devNotify c' k' := by
  refine ⟨_, setDis_trace c b k s, fun e he => ?_⟩
  split at he
  · exact ⟨c, _, List.mem_singleton.mp he⟩
  · cases he

/-! ### The enable commands -/

/-- R140, R141, R146, R147: the channel and the value each enable command hands to `SetDis`. -/
theorem exec_of_mem_enableCommands {i : Instr} {c : Channel} {b : Bool}
    (hi : (i, c, b) ∈ [(Instr.dis0, Channel.c0, true), (.dis1, .c1, true), (.en0, .c0, false), (.en1, .c1, false)])
    (s : State) : exec i s = .next (setDis c b .enableNoIrq s) := by
  simp only [List.mem_cons, Prod.mk.injEq, List.not_mem_nil, or_false] at hi
  rcases hi with ⟨rfl, rfl, rfl⟩ | ⟨rfl, rfl, rfl⟩ | ⟨rfl, rfl, rfl⟩ | ⟨rfl, rfl, rfl⟩ <;> rfl

/-- Settles O19: the command is `SetDis` of its channel, whose rules give the bits, the other bytes and the events. -/
theorem enableCommandsSetTheDisableBit : Obligations.EnableCommandsSetTheDisableBit := by
  have hdecode {i : Instr} {v : Byte} := decodeCommand_of_encode (i := i) (v := v)
  refine ⟨⟨hdecode rfl rfl rfl, hdecode rfl rfl rfl, hdecode rfl rfl rfl, hdecode rfl rfl rfl⟩, fun s i c b hram hi =>
    ⟨setDis c b .enableNoIrq s, exec_of_mem_enableCommands hi s, setDis_frame .., ?bits,
      fun _ => setDis_ramByte_other c b _ s hram, ?events⟩⟩
  case bits => cases c <;> exact setDis_ramByte_zero_getLsbD _ b _ hram
  case events => cases c <;> exact setDis_trace _ b _ s

/-! ### The interface tests -/

/-- R102: a channel is present exactly when its three handlers are wired. -/
theorem present_iff (cfg : Config) (c : Channel) :
    present cfg c = true
      ↔ (cfg.wiring c).hasRead = true ∧ (cfg.wiring c).hasWrite = true ∧ (cfg.wiring c).hasPeek = true := by
  rw [present, Bool.and_eq_true, Bool.and_eq_true, and_assoc]

/-- R142, R144: an interface test is a one-byte response that shows whether the three handlers are wired. -/
theorem interfaceTest_eq (c : Channel) (s : State) :
    interfaceTest c s = { s with
      q := if s.q.length < s.cfg.queueCap then
          [if (s.cfg.wiring c).hasRead = true ∧ (s.cfg.wiring c).hasWrite = true ∧ (s.cfg.wiring c).hasPeek = true
            then iftestPass else s.cfg.iftestFail c]
        else s.q.getLast?.toList } := by
  rw [interfaceTest, respond_eq, if_congr (present_iff s.cfg c) rfl rfl]

/-- Settles O21: both commands are the interface test, each of its channel. -/
theorem interfaceTestsQueueTheirAnswerAlone : Obligations.InterfaceTestsQueueTheirAnswerAlone :=
  ⟨⟨decodeCommand_of_encode rfl rfl rfl, decodeCommand_of_encode rfl rfl rfl⟩, fun s =>
    ⟨congrArg Host.Outcome.next (interfaceTest_eq .c1 s), congrArg Host.Outcome.next (interfaceTest_eq .c0 s)⟩⟩

/-! ### `SELFTEST` and `DUMP` -/

/-- R143: `SELFTEST` disables channel 0 and appends its two bytes as far as they fit. -/
theorem exec_selftest (s : State) :
    exec .selftest s = .next { setDis .c0 true .enableNoIrq s with
      q := s.q ++ [ackByte, selftestPass].take (s.cfg.queueCap - s.q.length) } := by
  have hpush : exec .selftest s = .next (qPushAll [ackByte, selftestPass] (setDis .c0 true .enableNoIrq s)) := rfl
  have hroom : (setDis .c0 true .enableNoIrq s).cfg.queueCap - (setDis .c0 true .enableNoIrq s).q.length
      = s.cfg.queueCap - s.q.length := by rw [setDis_cfg, setDis_q]
  rw [hpush, qPushAll_eq, hroom, setDis_q]

/-- R145: `DUMP` appends the bytes of the RAM as far as they fit. -/
theorem exec_dump (s : State) :
    exec .dump s = .next { s with q := s.q ++ (ramBytes s).take (s.cfg.queueCap - s.q.length) } :=
  congrArg Host.Outcome.next (qPushAll_eq (ramBytes s) s)

/-- Settles O22: the queue is the one part of the answer that `SetDis` of channel 0 does not fix. -/
theorem selftestDisablesChannelZeroAndQueuesTwoBytes : Obligations.SelftestDisablesChannelZeroAndQueuesTwoBytes := by
  refine ⟨decodeCommand_of_encode rfl rfl rfl, fun s hram => ⟨_, exec_selftest s, ?frame,
    setDis_ramByte_zero_getLsbD .c0 true .enableNoIrq hram, fun _ => setDis_ramByte_other .c0 true .enableNoIrq s hram,
    ?events, rfl⟩⟩
  case frame => rw [setDis_frame]
  case events =>
    have hwas : s.disabled .c0 ≠ true ↔ (s.ramByte 0).getLsbD 4 = false := Bool.eq_false_iff.symm
    exact (setDis_trace .c0 true .enableNoIrq s).trans
      (congrArg (s.trace ++ ·) (if_congr (and_congr_left' hwas) rfl rfl))

/-- Settles O23: `DUMP` is the pushes of the 32 bytes in turn. -/
theorem dumpQueuesTheRam : Obligations.DumpQueuesTheRam :=
  ⟨decodeCommand_of_encode rfl rfl rfl, exec_dump⟩

/-! ### What the eight commands can change -/

/-- R140 to R147: five of the commands are `SetDis` of a channel, one of them with pushes after it; the other three change the
queue alone. -/
theorem exec_channelCommand_cases {i : Instr} {s t : State}
    (hi : i ∈ [Instr.dis1, .en1, .iftest1, .selftest, .iftest0, .dump, .dis0, .en0]) (h : exec i s = .next t) :
    (∃ c b q, t = { setDis c b .enableNoIrq s with q := q }) ∨ ∃ q, t = { s with q := q } := by
  have hset (bit : Nat) (b : Bool) (hmem : (i, bit, b) ∈ disableBitCommands) :
      ∃ c b q, t = { setDis c b .enableNoIrq s with q := q } := by
    obtain ⟨c, q, -, ht⟩ := exec_disableBitCommand hmem h
    exact ⟨c, b, q, ht⟩
  cases i with
  | dis0 | selftest => exact .inl (hset 4 true (by decide))
  | dis1 => exact .inl (hset 5 true (by decide))
  | en0 => exact .inl (hset 4 false (by decide))
  | en1 => exact .inl (hset 5 false (by decide))
  | iftest0 =>
    cases h
    exact .inr ⟨_, interfaceTest_eq .c0 s⟩
  | iftest1 =>
    cases h
    exact .inr ⟨_, interfaceTest_eq .c1 s⟩
  | dump => exact .inr ⟨_, Host.Outcome.next.inj (h.symm.trans (exec_dump s))⟩
  | _ => simp at hi

/-- Settles O24: the queue is neither RAM nor trace, and `SetDis` changes one disable bit and appends notifications. -/
theorem channelCommandsTouchOnlyTheDisableBitsTheQueueAndTheTrace :
    Obligations.ChannelCommandsTouchOnlyTheDisableBitsTheQueueAndTheTrace := by
  intro s t i hram hi h
  rcases exec_channelCommand_cases hi h with ⟨c, b, q, rfl⟩ | ⟨q, rfl⟩
  · refine ⟨?_, fun j h4 h5 => ?_, fun _ => setDis_ramByte_other c b .enableNoIrq s hram,
      setDis_trace_notifications c b .enableNoIrq s⟩
    · rw [setDis_frame]
    · exact (setDis_ramByte_zero_getLsbD c b .enableNoIrq hram j).trans (if_neg (ne_disBit h4 h5 c))
  · exact ⟨rfl, fun _ _ _ => rfl, fun _ _ => rfl, [], (List.append_nil _).symm, nofun⟩

end Sys2Proof.Machine
end

section
/-! The commands 0xC0 to 0xDF and 0xF0 to 0xFF (R150 to R160): the virtual ports, the redirections and the lines. -/

namespace Sys2Proof.Machine

/-! ### The nibble commands and the override they set -/

/-- R151, R152: both commands capture four bits of the input port, from bit 0 or from bit 4 on. -/
theorem exec_pollCommand {i : Instr} {k : Nat} (hi : (i, k) ∈ [(Instr.pollinlo, 0), (.pollinhi, 4)]) (s : State) :
    exec i s = .next { s with stOverride := some (s.inport.extractLsb' k 4) } := by
  simp only [List.mem_cons, Prod.mk.injEq, List.not_mem_nil, or_false] at hi
  rcases hi with ⟨rfl, rfl⟩ | ⟨rfl, rfl⟩ <;> rfl

/-- R151, R152: the bits of a captured nibble. -/
theorem nibble_getLsbD (v : Byte) (k : Nat) {j : Nat} (hj : j < 4) :
    (v.extractLsb' k 4 : Nibble).getLsbD j = v.getLsbD (k + j) := by
  rw [BitVec.getLsbD_extractLsb', decide_eq_true hj, Bool.true_and]

/-- R212: bits 3:0 of the status byte do not depend on the override. -/
theorem statusByte_low_masked (s : State) {j : Nat} (hj : j < 4) :
    (statusByte s).getLsbD j = (maskStatus s.hideObf (rawStatus s)).getLsbD j := by
  have hover := overrideStatus_low s.stOverride (rawStatus s) j hj
  rcases Nat.eq_zero_or_pos j with rfl | hpos
  · rw [statusByte, maskStatus_bit0, maskStatus_bit0, hover]
  · rw [statusByte, maskStatus_above _ _ hpos (by omega), maskStatus_above _ _ hpos (by omega), hover]

/-- R212: a status read returns the status byte, clears the override, and leaves `aux` and bits 3:0 of the status byte. -/
theorem exec_rdstat {s t : State} (h : exec .rdstat s = .next t) :
    t.dout = statusByte s ∧ t.stOverride = none ∧ t.aux = s.aux
      ∧ ∀ j, j < 4 → (statusByte t).getLsbD j = (statusByte s).getLsbD j := by
  cases h
  refine ⟨rfl, rfl, rfl, fun j hj => ?_⟩
  rw [statusByte_low_masked _ hj, statusByte_low_masked s hj]
  rfl

/-- R85, R212: without an override bits 7:4 show `aux` in bit 5 and 0 elsewhere. -/
theorem statusByte_high (s : State) (ho : s.stOverride = none) :
    (statusByte s).getLsbD 4 = false ∧ (statusByte s).getLsbD 5 = s.aux ∧ (statusByte s).getLsbD 6 = false
      ∧ (statusByte s).getLsbD 7 = false := by
  refine ⟨?_, ?_, ?_, ?_⟩ <;> exact (statusByte_above s ho (by decide) (by decide)).trans (rawStatus_getLsbD s (by decide))

/-- Settles O28: the first read returns the status byte under the captured nibble and clears the override, so that the second
returns it without one; nothing else the byte shows changes in between. -/
theorem overrideIsShownByExactlyOneStatusRead : Obligations.OverrideIsShownByExactlyOneStatusRead := by
  intro s t u w i k hi hpoll hfirst hsecond
  rw [exec_pollCommand hi] at hpoll
  cases hpoll
  obtain ⟨hshown, hcleared, haux, hlow⟩ := exec_rdstat hfirst
  obtain ⟨hreal, _, _, _⟩ := exec_rdstat hsecond
  rw [hshown, hreal]
  obtain ⟨h4, h5, h6, h7⟩ := statusByte_high u hcleared
  exact ⟨fun j hj => (statusByte_override _ rfl hj).trans (nibble_getLsbD s.inport k hj), h4, h5.trans haux, h6, h7, hlow⟩

/-- Settles O27: the two nibbles start at the bits 0 and 4. -/
theorem pollCommandsCaptureANibble : Obligations.PollCommandsCaptureANibble := by
  refine ⟨⟨decodeCommand_of_encode rfl rfl rfl, decodeCommand_of_encode rfl rfl rfl⟩, fun s =>
    ⟨⟨_, exec_pollCommand (k := 0) (by decide) s, fun j hj => ?_⟩, _, exec_pollCommand (k := 4) (by decide) s,
      fun j => nibble_getLsbD s.inport 4⟩⟩
  rw [nibble_getLsbD s.inport 0 hj, Nat.zero_add]

/-! ### The input port -/

/-- R150: bits 0 and 1 change places and the bits above them stay. -/
theorem swapLowBits_getLsbD (v : Byte) :
    (swapLowBits v).getLsbD 0 = v.getLsbD 1 ∧ (swapLowBits v).getLsbD 1 = v.getLsbD 0
      ∧ ∀ i, 2 ≤ i → (swapLowBits v).getLsbD i = v.getLsbD i := by
  refine ⟨?_, ?_, fun i hi => ?_⟩
  · simp only [swapLowBits, BitVec.getLsbD_append, BitVec.getLsbD_extractLsb']; rfl
  · simp only [swapLowBits, BitVec.getLsbD_append, BitVec.getLsbD_extractLsb']; rfl
  · have hpos : ¬ i < 1 := by omega
    have hidx : 2 + (i - 1 - 1) = i := by omega
    by_cases hlt : i < 8
    · have hlow : ¬ i - 1 < 1 := by omega
      have hin : i - 1 - 1 < 6 := by omega
      simp only [swapLowBits, BitVec.getLsbD_append, BitVec.getLsbD_extractLsb', hpos, hlow, hin, hidx, decide_true,
        if_false, Bool.true_and]
    · rw [BitVec.getLsbD_of_ge _ _ (by omega), BitVec.getLsbD_of_ge _ _ (by omega)]

/-- R150: `RDINP` is a one-byte response of the input port, which the variant then rotates. -/
theorem exec_rdinp (s : State) :
    exec .rdinp s = .next { s with
      q := if s.q.length < s.cfg.queueCap then [s.inport] else s.q.getLast?.toList
      inport := if s.cfg.variantC0Rotate then swapLowBits s.inport else s.inport } := by
  simp only [exec, execRdinp, respond_eq]
  split <;> rfl

/-- Settles O26: the response is made of the port before the variant's exchange. -/
theorem rdinpQueuesTheInputPortAlone : Obligations.RdinpQueuesTheInputPortAlone := by
  refine ⟨decodeCommand_of_encode rfl rfl rfl, fun s => ⟨_, exec_rdinp s, rfl, fun hoff => ?plain, fun hon => ?variant⟩⟩
  case plain => simp only [hoff, Bool.false_eq_true, if_false]
  case variant =>
    simp only [hon, if_true]
    exact swapLowBits_getLsbD s.inport

/-! ### The pending read and the arms -/

/-- Settles O29: of the three requests of R42 the read of the output port alone is pending. -/
theorem rdoutpMakesAPortReadPending : Obligations.RdoutpMakesAPortReadPending :=
  ⟨decodeCommand_of_encode rfl rfl rfl, fun _ => rfl⟩

/-- Settles O30: each command's body is its one assignment, `SIM1`'s its two. -/
theorem armCommandsSetTheirArm : Obligations.ArmCommandsSetTheirArm := by
  have hdecode {i : Instr} {v : Byte} := decodeCommand_of_encode (i := i) (v := v)
  exact ⟨⟨hdecode rfl rfl rfl, hdecode rfl rfl rfl, hdecode rfl rfl rfl, hdecode rfl rfl rfl⟩,
    fun _ => ⟨rfl, rfl, rfl, rfl⟩⟩

/-! ### The lines -/

/-- R158, R159: the two commands drive the A20 line, each to its level. -/
theorem exec_a20Command (s : State) (b : Bool) : exec (if b then .a20on else .a20off) s = .next (driveA20 b s) := by
  cases b <;> rfl

/-- Settles O31: the level is bit 1 of the output port, and the event follows whatever the bit was. -/
theorem a20CommandsDriveBitOne : Obligations.A20CommandsDriveBitOne :=
  ⟨⟨decodeCommand_of_encode rfl rfl rfl, decodeCommand_of_encode rfl rfl rfl⟩, fun s b =>
    ⟨driveA20 b s, exec_a20Command s b, rfl, setBit_getLsbD_same s.outport 1 b (by decide),
      fun i => setBit_getLsbD_other s.outport 1 i b, fun _ => rfl⟩⟩

/-- R83: the bytes 1111 m r. -/
theorem decodeCommand_pulse_byte (m : BitVec 3) (r : Bool) :
    decodeCommand (0xF#4 ++ m ++ BitVec.ofBool r : BitVec (4 + 3 + 1)) = .pulse m r :=
  decodeCommand_of_encode rfl rfl rfl

/-- R160: `PULSE` is a reset request that its bit 0 suppresses. -/
theorem exec_pulse (m : BitVec 3) (r : Bool) (s : State) :
    exec (.pulse m r) s = .next { s with trace := s.trace ++ if r then [] else [Event.sysResetReq] } :=
  congrArg Host.Outcome.next (requestReset_eq r s)

/-- Settles O32: with bit 0 set the request adds no event, and there is nothing else it could change. -/
theorem pulseRequestsAResetWhenBitZeroIsClear : Obligations.PulseRequestsAResetWhenBitZeroIsClear := by
  refine ⟨decodeCommand_pulse_byte, fun s m => ⟨exec_pulse m false s, ?_⟩⟩
  rw [exec_pulse, if_pos rfl, List.append_nil]

end Sys2Proof.Machine
end

section
/-! A channel-0 byte under translation (R193, R194): what the Filler makes of it, the escape byte or a byte for the host. -/

namespace Sys2Proof.Machine

/-! ### The translated byte -/

/-- R194: the byte `Translate(raw)` gives for a byte other than 0xF0, with the escape armed or not. -/
def translated (cfg : Config) (esc : Bool) (raw : Byte) : Byte :=
  if esc then xlatEntry cfg raw ||| xlatEscBit else xlatEntry cfg raw

/-- R194: the escape does not reach bits 6:0 of the table entry. -/
theorem translated_low (cfg : Config) (esc : Bool) (raw : Byte) {i : Nat} (hi : i < 7) :
    (translated cfg esc raw).getLsbD i = (xlatEntry cfg raw).getLsbD i := by
  cases esc
  · rfl
  · have hbit : xlatEscBit.getLsbD i = false := by interval_cases i <;> rfl
    rw [translated, if_pos rfl, BitVec.getLsbD_or, hbit, Bool.or_false]

/-- R194: the escape sets bit 7 of the table entry. -/
theorem translated_bit7 (cfg : Config) (esc : Bool) (raw : Byte) :
    (translated cfg esc raw).getLsbD 7 = ((xlatEntry cfg raw).getLsbD 7 || esc) := by
  cases esc
  · exact (Bool.or_false _).symm
  · exact BitVec.getLsbD_or

/-- R194: the byte 0xF0 arms the escape. -/
theorem translateByte_escape (s : State) : translateByte xlatEscByte s = .escape { s with xlatEsc := true } := if_pos rfl

/-- R194: every other byte is translated for the host and disarms the escape. -/
theorem translateByte_of_ne {raw : Byte} (hraw : raw ≠ xlatEscByte) (s : State) :
    translateByte raw s = .byte .c0 (translated s.cfg s.xlatEsc raw) { s with xlatEsc := false } :=
  if_neg hraw

/-! ### The fill -/

/-- R193: under translation a byte of channel 0 is translated. -/
theorem receive_zero_of_xlate (raw : Byte) {s : State} (hx : s.xlate = true) : receive .c0 raw s = translateByte raw s :=
  if_pos ⟨rfl, hx⟩

/-- R193, R194: with the channels to poll, a fill for which 0xF0 is polled is swallowed. -/
theorem fill_of_polled_escape {s t : State} (hfill : fill s = fillFromChannels s)
    (hpoll : pollChannels s = translateByte xlatEscByte t) : fill s = (.swallowed, { t with xlatEsc := true }) := by
  rw [hfill, fillFromChannels, hpoll, translateByte_escape]

/-- R193, R194, R196: with the channels to poll, a fill for which another byte is polled completes its translation. -/
theorem fill_of_polled_byte {s t : State} {raw : Byte} (hraw : raw ≠ xlatEscByte) (hfill : fill s = fillFromChannels s)
    (hpoll : pollChannels s = translateByte raw t) :
    fill s = (.produced, complete (translated t.cfg t.xlatEsc raw) .c0 { t with xlatEsc := false }) := by
  rw [hfill, fillFromChannels, hpoll, translateByte_of_ne hraw]

/-- Settles O41: the poll gives the translation of the byte taken from channel 0, over the state with that byte alone consumed;
the fill swallows 0xF0 and completes every other byte. -/
theorem translationIsEscapeAware : Obligations.TranslationIsEscapeAware := by
  intro s b hout hram hq hhas horder hxlate hbyte
  have hfill := fill_channels hout hram hq
  have hpoll := (pollChannels_zero (takeByte_zero hhas hbyte) horder).trans (receive_zero_of_xlate b hxlate)
  constructor
  · rintro rfl
    exact fill_of_polled_escape hfill hpoll
  · intro hraw
    refine ⟨_, fill_of_polled_byte hraw hfill hpoll, ?frame, fun i hi => ?low, ?high⟩
    case frame => rw [complete_frame]; rfl
    case low => rw [complete_outbuf, translated_low _ _ _ hi]; rfl
    case high => rw [complete_outbuf, translated_bit7]; rfl

end Sys2Proof.Machine
end

section
/-! The services of a latched data write (R176 to R179): each does its kind's one thing and releases the latch. -/

namespace Sys2Proof.Machine

/-- Settles O33: a forward adds at most its one event. -/
theorem forwardSendsTheInputBuffer : Obligations.ForwardSendsTheInputBuffer := by
  intro s c hpw
  rw [serviceWrite_some hpw, serviceKind, forward_eq, andThen_next]
  cases c <;> rfl

/-- Settles O34: the rules of `RamWrite` byte by byte and event by event. -/
theorem ramWriteStoresAnInRangeIndex : Obligations.RamWriteStoresAnInRangeIndex := by
  intro s i hram hpw
  refine ⟨releaseLatch (ramWrite i s), by rw [serviceWrite_some hpw]; rfl, ?frame, ?inRange, ?outOfRange, ?quiet, ?notifies⟩
  case frame => rw [ramWrite_frame]; rfl
  case inRange =>
    intro hi
    exact ⟨ramWrite_ramByte_same i s (Nat.lt_succ_of_le hi) hram, fun a ha => ramWrite_ramByte_other i s hram ha⟩
  case outOfRange =>
    intro hi a
    rw [ramWrite_out i s (Nat.not_lt.2 hi)]
    rfl
  case quiet =>
    intro hi
    by_cases hlt : i.val < ramSize
    · rw [ramWrite_in i s hlt, if_neg hi]
      rfl
    · rw [ramWrite_out i s hlt]
      rfl
  case notifies =>
    intro hi
    have hlt : i.val < ramSize := hi ▸ Nat.succ_pos 31
    rw [ramWrite_in i s hlt, if_pos hi]
    exact configNotify_trace s hram

/-- Settles O35: the pins follow the byte stored. -/
theorem outportWriteDrivesThePins : Obligations.OutportWriteDrivesThePins := by
  intro s hpw
  rw [serviceWrite_some hpw, serviceKind, outportWrite_eq, andThen_next]
  cases hkeep : s.inbuf.getLsbD 0 <;> rfl

/-- Settles O36: the injection latch is the one field a simulation writes. -/
theorem simulateFillsTheInjectionLatch : Obligations.SimulateFillsTheInjectionLatch := by
  intro s
  constructor <;> intro hpw <;> rw [serviceWrite_some hpw] <;> rfl

end Sys2Proof.Machine
end

section
/-! Path 4 of a fill without translation (R193): the byte taken from the polled channel is the one the host gets. -/

namespace Sys2Proof.Machine

/-- R193, R196: when the byte polled is not one of channel 0 under translation, the fill completes it as it is. -/
theorem fill_of_untranslated {s u : State} {c : Channel} {raw : Byte} (hfill : fill s = fillFromChannels s)
    (hpoll : pollChannels s = receive c raw u) (hplain : ¬ (c = .c0 ∧ u.xlate = true)) :
    fill s = (.produced, complete raw c u) := by
  rw [hfill, fillFromChannels, hpoll, receive, if_neg hplain]

/-- R193: taking a byte leaves the translation enable. -/
theorem takeByte_xlate {s u : State} {c : Channel} {raw : Byte} (h : takeByte s c = some (raw, u)) : u.xlate = s.xlate := by
  rw [takeByte_frame h]
  rfl

/-- Settles O40: no channel, channel 1, or channel 0 without translation; the byte is the injected one or the device's. -/
theorem fillPollsTheChannelsInOrder : Obligations.FillPollsTheChannelsInOrder := by
  intro s hout hram hq
  have hfill := fill_channels hout hram hq
  refine ⟨?none, ?one, ?zero⟩
  case none =>
    rintro ⟨h0, h1⟩
    rw [hfill, fillFromChannels, pollChannels_none h0 h1]
  case one =>
    intro hhas horder
    obtain ⟨raw, u, htake⟩ := takeByte_of_has hhas
    refine ⟨_, fill_of_untranslated hfill (pollChannels_one htake horder) (by simp), ?_⟩
    rcases takeByte_some htake with ⟨hinj, rfl⟩ | ⟨hinj, _, rest, hoff, rfl⟩
    · exact .inl ⟨raw, hinj, complete_frame ..⟩
    · exact .inr ⟨hinj, raw, rest, hoff, complete_frame ..⟩
  case zero =>
    intro hhas horder hoff
    obtain ⟨raw, u, htake⟩ := takeByte_of_has hhas
    have hplain : u.xlate = false := (takeByte_xlate htake).trans hoff
    refine ⟨_, fill_of_untranslated hfill (pollChannels_zero htake horder) (by simp [hplain]), ?_⟩
    rcases takeByte_some htake with ⟨hinj, rfl⟩ | ⟨hinj, _, rest, hoff, rfl⟩
    · exact .inl ⟨raw, hinj, complete_frame ..⟩
    · exact .inr ⟨hinj, raw, rest, hoff, complete_frame ..⟩

end Sys2Proof.Machine
end

section
/-! The pass (R172, R173) on any state: when it is idle, what one iteration of the service loop does in each direction, and the
passes that carry out no service, one, or both. A `TICK` is the pass on the state after its accrual (R171). -/

namespace Sys2Proof.Machine

/-! ### What the engine reads after a service -/

/-- R175: a write service leaves the budget and the output-full flag. -/
theorem serviceWrite_engine_fields {s t : State} {k : PendingWrite} (hpw : s.pw = some k) (h : serviceWrite s = .next t) :
    t.budget = s.budget ∧ t.obf = s.obf := by
  rw [serviceWrite_frame hpw h]
  exact ⟨rfl, rfl⟩

/-- R190, R198: a fill that finds nothing changes nothing. -/
theorem fill_nothing {s t : State} (h : fill s = (.nothing, t)) : t = s := by
  rcases fill_cases s with ⟨_, _, _, hf, _⟩ | ⟨_, hf, _⟩ | hf <;> cases hf.symm.trans h
  rfl

/-- A budget that is not spent is kept. -/
theorem withBudget_self {s : State} {b : Nat} (h : s.budget = b) : ({ s with budget := b } : State) = s := by
  rw [← h]

/-! ### The idle test -/

/-- R172: an idle pass zeroes the budget. -/
theorem pass_of_idle {s : State} (hpw : s.pw = none) (hread : s.obf = true ∨ hasSource s = false) :
    pass s = .next { s with budget := 0 } := by
  refine pass_idle s (Bool.or_eq_false_iff.2 ⟨?_, ?_⟩)
  · simp [writeReady, hpw]
  · rcases hread with h | h <;> simp [readReady, h]

/-- R172, R173: a pass with something pending runs the service loop. -/
theorem pass_of_pending {s : State} (h : s.pw ≠ none ∨ (s.obf = false ∧ hasSource s = true)) :
    pass s = serviceLoop 3 PassFlags.start s := by
  refine pass_busy s (Bool.or_eq_true_iff.2 (h.imp (fun hpw => ?_) fun ⟨hobf, hsrc⟩ => ?_))
  · exact Option.isSome_iff_ne_none.2 hpw
  · simp [readReady, hobf, hsrc]

/-- R172, R173: a pass with a write latched runs the service loop. -/
theorem pass_of_latched {s : State} {k : PendingWrite} (hpw : s.pw = some k) : pass s = serviceLoop 3 PassFlags.start s :=
  pass_of_pending (.inl (hpw ▸ nofun))

/-- R172, R173: a pass whose fill finds something runs the service loop. -/
theorem pass_of_fill {s u : State} {r : FillResult} (hobf : s.obf = false) (hfill : fill s = (r, u)) (hr : r ≠ .nothing) :
    pass s = serviceLoop 3 PassFlags.start s :=
  pass_of_pending (.inr ⟨hobf, hasSource_of_fill hfill hr⟩)

/-! ### The two directions of one iteration -/

/-- R173: a fill that cannot be paid for, has no room or has no source is no output service. -/
theorem readAttempt_of_notReady (f : PassFlags) {s : State}
    (h : s.budget < costRead ∨ s.obf = true ∨ hasSource s = false) : readAttempt f s = (f, s, false) := by
  rcases h with hlow | hobf | hsrc
  · exact readAttempt_skip (.inr (.inr (.inl hlow)))
  · exact readAttempt_skip (.inr (.inr (.inr hobf)))
  · exact readAttempt_nothing f (fill_of_noSource hsrc)

/-- R173: when input servicing is due. -/
theorem writeDue_iff (f : PassFlags) (s : State) :
    writeDue f s = true ↔ f.wDone = false ∧ costWrite ≤ s.budget ∧ s.pw ≠ none := by
  simp [writeDue, Option.isSome_iff_ne_none, and_assoc]

/-- R173: a latched write that can be paid for and was not serviced in the pass is due. -/
theorem writeDue_of_latched {f : PassFlags} {s : State} {k : PendingWrite} (hf : f.wDone = false)
    (hcost : costWrite ≤ s.budget) (hpw : s.pw = some k) : writeDue f s = true :=
  (writeDue_iff f s).2 ⟨hf, hcost, hpw ▸ nofun⟩

/-- R173: no write is due that cannot be paid for, and none when nothing is latched. -/
theorem writeDue_eq_false (f : PassFlags) {s : State} (h : s.budget < costWrite ∨ s.pw = none) : writeDue f s = false := by
  rw [← Bool.not_eq_true, writeDue_iff]
  rintro ⟨_, hbudget, hpw⟩
  exact h.elim (Nat.not_lt.2 hbudget) hpw

/-! ### Iterations of the loop -/

/-- R174(a): when neither direction makes progress, the loop ends where it is, whatever number of iterations it may still make. -/
theorem serviceLoop_idle (k : Nat) {f : PassFlags} {s : State} (hr : readAttempt f s = (f, s, false))
    (hw : writeDue f s = false) : serviceLoop k f s = .next s := by
  cases k with
  | zero => rfl
  | succ k => exact serviceLoop_stop hr hw

/-- R173: an iteration that services a read and no write. -/
theorem serviceLoop_read {k : Nat} {f g : PassFlags} {s u : State} (hr : readAttempt f s = (g, u, true))
    (hw : writeDue g u = false) : serviceLoop (k + 1) f s = serviceLoop k g u := by
  simp [serviceLoop_succ, hr, hw]

/-- R173: an iteration whose fill swallows the escape byte or finds nothing, and that services no write, is the last. -/
theorem serviceLoop_last {k : Nat} {f g : PassFlags} {s u : State} (hr : readAttempt f s = (g, u, false))
    (hw : writeDue g u = false) : serviceLoop (k + 1) f s = .next u := by
  simp [serviceLoop_succ, hr, hw]

/-- R173: an iteration that services a write, after whatever output servicing did. -/
theorem serviceLoop_attempt_write {k : Nat} {f g : PassFlags} {s u t : State} {p : Bool} {w : PendingWrite}
    (hr : readAttempt f s = (g, u, p)) (hw : writeDue g u = true) (hpw : u.pw = some w) (hs : serviceWrite u = .next t) :
    serviceLoop (k + 1) f s = serviceLoop k { g with wDone := true } { t with budget := u.budget - costWrite } := by
  simp [serviceLoop_succ, hr, hw, hs, (serviceWrite_engine_fields hpw hs).1]

/-- R173: a produced fill is paid out of the budget it was tried with. -/
theorem readAttempt_pays {f : PassFlags} {s u : State} (hd : f.rDone = false) (hb : f.rBlocked = false)
    (hcost : costRead ≤ s.budget) (hobf : s.obf = false) (hfill : fill s = (.produced, u)) :
    readAttempt f s = ({ f with rDone := true }, { u with budget := s.budget - costRead }, true) := by
  rw [readAttempt_produced hd hb hcost hobf hfill, (fill_engine_fields hfill).1]

/-! ### Passes with at most one service -/

/-- R173: a pass with something pending that services nothing keeps the budget. -/
theorem pass_without_service {s : State} (hpending : s.pw ≠ none ∨ (s.obf = false ∧ hasSource s = true))
    (hread : s.budget < costRead ∨ s.obf = true ∨ hasSource s = false) (hw : s.budget < costWrite) : pass s = .next s := by
  rw [pass_of_pending hpending]
  exact serviceLoop_idle _ (readAttempt_of_notReady _ hread) (writeDue_eq_false _ (.inl hw))

/-- R173: a fill alone. -/
theorem pass_fill {s u : State} (hobf : s.obf = false) (hcost : costRead ≤ s.budget) (hfill : fill s = (.produced, u))
    (hw : s.budget < costRead + costWrite ∨ s.pw = none) : pass s = .next { u with budget := s.budget - costRead } := by
  obtain ⟨_, hpw, _⟩ := fill_engine_fields hfill
  have hdue (f : PassFlags) : writeDue f { u with budget := s.budget - costRead } = false :=
    writeDue_eq_false f (hw.imp (Nat.sub_lt_left_of_lt_add hcost) hpw.trans)
  rw [pass_of_fill hobf hfill nofun, serviceLoop_read (readAttempt_pays rfl rfl hcost hobf hfill) (hdue _)]
  exact serviceLoop_idle _ (readAttempt_done rfl _) (hdue _)

/-- R173, R198: a swallowed escape byte alone is not paid for. -/
theorem pass_swallow {s u : State} (hobf : s.obf = false) (hcost : costRead ≤ s.budget) (hfill : fill s = (.swallowed, u))
    (hw : s.budget < costWrite ∨ s.pw = none) : pass s = .next { u with budget := s.budget } := by
  obtain ⟨hbudget, hpw, _⟩ := fill_engine_fields hfill
  have hdue (f : PassFlags) : writeDue f u = false := writeDue_eq_false f (hw.imp hbudget.trans_lt hpw.trans)
  rw [pass_of_fill hobf hfill nofun, serviceLoop_last (readAttempt_swallowed rfl rfl hcost hobf hfill) (hdue _),
    withBudget_self hbudget]

/-- R173, R175: a latched write alone, no read being ready in the pass. -/
theorem pass_write {s : State} {k : PendingWrite} (hpw : s.pw = some k) (hcost : costWrite ≤ s.budget)
    (hread : s.obf = true ∨ (hasSource s = false ∧ s.budget < costRead + costWrite)) :
    ∃ t, serviceWrite s = .next t ∧ pass s = .next { t with budget := s.budget - costWrite } := by
  obtain ⟨t, ht⟩ := serviceWrite_answers s
  obtain ⟨_, hobf⟩ := serviceWrite_engine_fields hpw ht
  have hskip := readAttempt_of_notReady .start (.inr (hread.imp_right And.left))
  have hleft : s.budget - costWrite < costRead ∨ t.obf = true :=
    hread.symm.imp (fun h => by omega) hobf.trans
  refine ⟨t, ht, ?_⟩
  rw [pass_of_latched hpw, serviceLoop_attempt_write hskip (writeDue_of_latched rfl hcost hpw) hpw ht]
  exact serviceLoop_idle _ (readAttempt_skip (.inr (.inr hleft))) (writeDue_done _ _)

/-- R173, R175, R198: a latched write alone, after a swallowed escape byte. -/
theorem pass_swallow_write {s u : State} {k : PendingWrite} (hpw : s.pw = some k) (hcost : costWrite ≤ s.budget)
    (hobf : s.obf = false) (hfill : fill s = (.swallowed, u)) :
    ∃ t, serviceWrite u = .next t ∧ pass s = .next { t with budget := s.budget - costWrite } := by
  obtain ⟨hbudget, hpwu, _⟩ := fill_engine_fields hfill
  obtain ⟨t, ht⟩ := serviceWrite_answers u
  have hread := readAttempt_swallowed (f := .start) rfl rfl (Nat.le_of_succ_le hcost) hobf hfill
  refine ⟨t, ht, ?_⟩
  rw [← hpwu] at hpw
  rw [← hbudget] at hcost ⊢
  rw [pass_of_fill hobf hfill nofun, serviceLoop_attempt_write hread (writeDue_of_latched rfl hcost hpw) hpw ht]
  exact serviceLoop_idle _ (readAttempt_skip (.inr (.inl rfl))) (writeDue_done _ _)

/-! ### Passes with both services -/

/-- R173: a fill and then the latched write, in one iteration. -/
theorem pass_fill_write {s u : State} {k : PendingWrite} (hpw : s.pw = some k) (hcost : costRead + costWrite ≤ s.budget)
    (hobf : s.obf = false) (hfill : fill s = (.produced, u)) :
    ∃ t, serviceWrite { u with budget := s.budget - costRead } = .next t
      ∧ pass s = .next { t with budget := s.budget - (costRead + costWrite) } := by
  obtain ⟨_, hpwu, _⟩ := fill_engine_fields hfill
  obtain ⟨t, ht⟩ := serviceWrite_answers { u with budget := s.budget - costRead }
  have hread := readAttempt_pays (f := .start) rfl rfl (le_of_add_le_left hcost) hobf hfill
  have hdue : writeDue { PassFlags.start with rDone := true } { u with budget := s.budget - costRead } = true :=
    writeDue_of_latched rfl (Nat.le_sub_of_add_le' hcost) (hpwu.trans hpw)
  refine ⟨t, ht, ?_⟩
  rw [pass_of_latched hpw, serviceLoop_attempt_write hread hdue (hpwu.trans hpw) ht, Nat.sub_sub]
  exact serviceLoop_done rfl rfl _

/-- R173: with no source before it, the latched write is serviced in the first iteration; the second tries a fill. -/
theorem pass_write_then {s t : State} {k : PendingWrite} (hpw : s.pw = some k) (hcost : costWrite ≤ s.budget)
    (hsrc : hasSource s = false) (ht : serviceWrite s = .next t) :
    pass s = serviceLoop 2 { PassFlags.start with wDone := true } { t with budget := s.budget - costWrite } := by
  have hskip := readAttempt_of_notReady .start (.inr (.inr hsrc))
  rw [pass_of_latched hpw, serviceLoop_attempt_write hskip (writeDue_of_latched rfl hcost hpw) hpw ht]

/-- R173: the fill tried after the write of the pass, while no read was made or blocked, ends the pass: a produced fill is paid
for, a swallowed escape byte is not. -/
theorem serviceLoop_fill_after_write (k : Nat) {f : PassFlags} {s u : State} {r : FillResult} (hd : f.rDone = false)
    (hb : f.rBlocked = false) (hcost : costRead ≤ s.budget) (hobf : s.obf = false) (hfill : fill s = (r, u)) :
    serviceLoop (k + 1) { f with wDone := true } s =
      .next { u with budget := s.budget - if r = .produced then costRead else 0 } := by
  cases r with
  | produced =>
    have hread := readAttempt_pays (f := { f with wDone := true }) hd hb hcost hobf hfill
    rw [serviceLoop_read hread (writeDue_done { f with rDone := true } _)]
    exact serviceLoop_done rfl rfl _
  | swallowed =>
    have hread := readAttempt_swallowed (f := { f with wDone := true }) hd hb hcost hobf hfill
    rw [serviceLoop_last hread (writeDue_done { f with rBlocked := true } _)]
    exact congrArg _ (withBudget_self (fill_engine_fields hfill).1).symm
  | nothing =>
    obtain rfl := fill_nothing hfill
    exact serviceLoop_last (readAttempt_nothing _ hfill) (writeDue_done f _)

/-! ### The statements -/

/-- Settles O46: an idle pass zeroes the budget; in the other passes neither direction can be paid for or has work to do. -/
theorem tickWithoutServiceOnlyCounts : Obligations.TickWithoutServiceOnlyCounts :=
  fun s n =>
    ⟨fun ⟨hpw, hread⟩ => pass_of_idle (s := accrue n s) hpw hread,
      fun hlow hpending => pass_without_service (s := accrue n s) hpending (.inl hlow) (Nat.lt_succ_of_lt hlow),
      fun hlow hpw hread => pass_without_service (s := accrue n s) (.inl hpw) (.inr hread) (Nat.lt_succ_of_le hlow)⟩

/-- Settles O47: the first iteration makes the fill, and no write is due in it or after it. -/
theorem tickServesTheReadFirst : Obligations.TickServesTheReadFirst := by
  rintro s u n _ rfl hobf hcost
  exact ⟨pass_fill (s := accrue n s) hobf hcost, pass_swallow (s := accrue n s) hobf hcost⟩

/-- Settles O59: the first iteration services the write, and no read is due in it or after it. -/
theorem tickServicesTheLatchedWrite : Obligations.TickServicesTheLatchedWrite := by
  rintro s n _ k rfl hpw hcost
  exact ⟨pass_write (s := accrue n s) hpw hcost, fun _ => pass_swallow_write (s := accrue n s) hpw hcost⟩

/-- Settles O60: with a fill, both services are made in the first iteration; without one, the write is, and the second tries
the fill again. -/
theorem tickServesBothDirections : Obligations.TickServesBothDirections := by
  rintro s n _ k rfl hobf hpw hcost
  refine ⟨fun _ => pass_fill_write (s := accrue n s) hpw hcost hobf, fun t u hsrc ht => ?_⟩
  have hpass := pass_write_then (s := accrue n s) hpw (le_of_add_le_right hcost) hsrc ht
  have hobft : t.obf = false := (serviceWrite_engine_fields (s := accrue n s) hpw ht).2.trans hobf
  have hsecond {r : FillResult} :=
    serviceLoop_fill_after_write 1 (f := .start) (s := { t with budget := (accrue n s).budget - costWrite }) (u := u) (r := r)
      rfl rfl (Nat.le_sub_of_add_le hcost) hobft
  refine ⟨fun hfill => hpass.trans (hsecond hfill), fun hfill => hpass.trans (hsecond hfill), fun hfill => ?_⟩
  obtain rfl := fill_nothing hfill
  exact hpass.trans (hsecond hfill)

/-- Settles O6: the write serviced is the latched command, whose service is `exec` of what its byte decodes to. -/
theorem tickRunsTheDecodedCommand : Obligations.TickRunsTheDecodedCommand := by
  intro s n rest hstd hin hpw hcost hread
  obtain ⟨u, hu, hservice⟩ := serviceWrite_command (s := accrue n { s with inputs := rest }) hpw
  obtain ⟨t, ht, hpass⟩ := pass_write (s := accrue n { s with inputs := rest }) hpw hcost hread
  obtain rfl : releaseLatch u = t := Host.Outcome.next.inj (hservice.symm.trans ht)
  exact ⟨u, hu, (stepRunsTheNextTick s n rest hstd hin).trans hpass⟩

end Sys2Proof.Machine
end

section
/-! The account of the engine (R171, R174, R184): across the service loop every bit-clock that leaves the budget pays for an
output buffer filled (11) or a latch released (12). -/

namespace Sys2Proof.Machine

/-! ### The account across a pass -/

/-- The budget of a state together with the bit-clocks a full output buffer and a free latch stand for: a produced fill turns 11
bit-clocks of the budget into the one, a serviced write 12 into the other. -/
def State.account (s : State) : Nat :=
  s.budget + (if s.obf = true then costRead else 0) + (if s.pw = none then costWrite else 0)

/-- What the service loop keeps: the account, the remainder of the accrual and the environment's operations; a full output
buffer and a free latch stay so. -/
structure Accounted (s t : State) : Prop where
  account : t.account = s.account
  acc : t.acc = s.acc
  inputs : t.inputs = s.inputs
  obf : s.obf = true → t.obf = true
  pw : s.pw = none → t.pw = none

theorem Accounted.refl (s : State) : Accounted s s := ⟨rfl, rfl, rfl, id, id⟩

theorem Accounted.trans {s t u : State} (hst : Accounted s t) (htu : Accounted t u) : Accounted s u where
  account := htu.account.trans hst.account
  acc := htu.acc.trans hst.acc
  inputs := htu.inputs.trans hst.inputs
  obf h := htu.obf (hst.obf h)
  pw h := htu.pw (hst.pw h)

/-- R173, R174: output servicing pays 11 bit-clocks exactly when it fills the output buffer. -/
theorem readAttempt_accounted (f : PassFlags) (s : State) : Accounted s (readAttempt f s).2.1 := by
  rcases readAttempt_cases f s with ⟨v, owner, u, _, hcost, hobf, hu, _, hr⟩ | ⟨u, _, hu, _, hr⟩ | hr <;> rw [hr]
  · rw [complete_frame, hu]
    refine ⟨?_, rfl, rfl, fun _ => rfl, id⟩
    simp only [State.account, hobf, if_true, Bool.false_eq_true, if_false]
    omega
  · rw [hu]
    exact ⟨rfl, rfl, rfl, id, id⟩
  · exact .refl s

/-- R173, R175: input servicing pays 12 bit-clocks and releases the latch. -/
theorem serviceWrite_accounted {s t : State} (hpw : s.pw.isSome = true) (hcost : costWrite ≤ s.budget)
    (h : serviceWrite s = .next t) : Accounted s { t with budget := t.budget - costWrite } := by
  obtain ⟨k, hk⟩ := Option.isSome_iff_exists.1 hpw
  rw [serviceWrite_frame hk h]
  refine ⟨?_, rfl, rfl, id, fun _ => rfl⟩
  simp only [State.account, hk, reduceCtorEq, if_true, if_false]
  omega

theorem serviceLoop_accounted {k : Nat} {f : PassFlags} {s t : State} (h : serviceLoop k f s = .next t) : Accounted s t :=
  serviceLoop_rel Accounted .refl (fun _ _ _ => .trans) readAttempt_accounted (fun _ _ => serviceWrite_accounted) k f s t h

/-- R172, R173: a `TICK` either is idle and zeroes the budget, or keeps the account. -/
theorem tick_cases {n : Nat} {s t : State} (h : tick n s = .next t) :
    (s.pw = none ∧ t = { accrue n s with budget := 0 }) ∨ Accounted (accrue n s) t := by
  by_cases hpending : s.pw ≠ none ∨ (s.obf = false ∧ hasSource s = true)
  · exact .inr (serviceLoop_accounted ((pass_of_pending (s := accrue n s) hpending).symm.trans h))
  · obtain ⟨hpw, hread⟩ : s.pw = none ∧ (s.obf = true ∨ hasSource s = false) := by
      simpa [imp_iff_not_or] using hpending
    exact .inl ⟨hpw, Host.Outcome.next.inj (h.symm.trans (pass_of_idle (s := accrue n s) hpw hread))⟩

/-- R174: the price of what happened from `s` to `t`: 11 bit-clocks when the output buffer was filled, 12 when the latch was
released. -/
def paid (s t : State) : Nat :=
  (if s.obf = false ∧ t.obf = true then 11 else 0) + (if s.pw ≠ none ∧ t.pw = none then 12 else 0)

/-- R174: the account read as a payment: what left the budget paid for the services. -/
theorem Accounted.payment {s t : State} (h : Accounted s t) : t.budget + paid s t = s.budget := by
  obtain ⟨haccount, _, _, hobf, hpw⟩ := h
  have hfill : (if s.obf = false ∧ t.obf = true then 11 else 0) + (if s.obf = true then costRead else 0)
      = if t.obf = true then costRead else 0 := by
    cases hs : s.obf
    · simp
    · simp [hobf hs]
  have hwrite : (if s.pw ≠ none ∧ t.pw = none then 12 else 0) + (if s.pw = none then costWrite else 0)
      = if t.pw = none then costWrite else 0 := by
    by_cases hs : s.pw = none
    · simp [hs, hpw hs]
    · simp [hs]
  simp only [State.account] at haccount
  simp only [paid]
  omega

/-- Settles O48: the service loop keeps the account, so that what left the accrued budget paid for the services. -/
theorem tickSpendsWholeCosts : Obligations.TickSpendsWholeCosts := by
  intro s t n hpending h
  have hacc := serviceLoop_accounted ((pass_of_pending (s := accrue n s) hpending).symm.trans h)
  exact ⟨hacc.acc, (Nat.add_assoc ..).trans hacc.payment⟩

/-! ### A full output buffer -/

/-- R174(d), R256: an unread byte and its flags, and every byte a device offers, stay as they are. -/
def KeepsUnread (s t : State) : Prop :=
  s.obf = true → t.obf = true ∧ t.outbuf = s.outbuf ∧ t.aux = s.aux ∧ t.offers0 = s.offers0 ∧ t.offers1 = s.offers1
    ∧ t.xlatEsc = s.xlatEsc

theorem KeepsUnread.refl (s : State) : KeepsUnread s s := fun h => ⟨h, rfl, rfl, rfl, rfl, rfl⟩

theorem KeepsUnread.trans {s t u : State} (hst : KeepsUnread s t) (htu : KeepsUnread t u) : KeepsUnread s u := by
  intro h
  obtain ⟨ht, hout, haux, h0, h1, hesc⟩ := hst h
  obtain ⟨hu, hout', haux', h0', h1', hesc'⟩ := htu ht
  exact ⟨hu, hout'.trans hout, haux'.trans haux, h0'.trans h0, h1'.trans h1, hesc'.trans hesc⟩

/-- Settles O49: with a full output buffer output servicing is skipped, and a write service touches none of these fields. -/
theorem unreadByteIsNeverOverwritten : Obligations.UnreadByteIsNeverOverwritten := by
  intro s t n hobf h
  refine pass_rel KeepsUnread .refl (fun _ _ _ => .trans) (fun u => .refl u) (fun f u hu => ?read)
    (fun u v hpw _ hv hu => ?write) (accrue n s) t h hobf
  case read =>
    rw [readAttempt_of_notReady f (.inr (.inl hu))]
    exact KeepsUnread.refl u hu
  case write =>
    obtain ⟨k, hk⟩ := Option.isSome_iff_exists.1 hpw
    rw [serviceWrite_frame hk hv]
    exact KeepsUnread.refl u hu

/-! ### The account across a step -/

/-- R210 to R214, R148: an instruction leaves the engine's clock and the environment's operations. -/
theorem exec_clock {i : Instr} {s t : State} (h : exec i s = .next t) :
    t.acc = s.acc ∧ t.budget = s.budget ∧ t.inputs = s.inputs := by
  rcases hi : i.space with _ | _
  · rw [exec_port_frame hi h]
    exact ⟨rfl, rfl, rfl⟩
  · rw [exec_command_frame hi h]
    exact ⟨rfl, rfl, rfl⟩

/-- The master cycles a state still holds: those of the budget and those that do not yet make a bit-clock. -/
def State.cyclesHeld (s : State) : Nat := s.budget * s.cfg.clkPerBit + s.acc

/-- R171: the accrual turns master cycles into bit-clocks and keeps the remainder. -/
theorem accrue_cyclesHeld (n : Nat) (s : State) : (accrue n s).cyclesHeld = s.cyclesHeld + n := by
  have hsplit := Nat.div_add_mod' (s.acc + n) s.cfg.clkPerBit
  simp only [State.cyclesHeld, accrue, Nat.add_mul]
  omega

/-- R171 to R174: a `TICK` pays for its services with the cycles it was given and those held; an idle one drops the budget. -/
theorem tick_cyclesHeld {n : Nat} {s t : State} (h : tick n s = .next t) :
    t.inputs = s.inputs ∧ paid s t * s.cfg.clkPerBit + t.cyclesHeld ≤ s.cyclesHeld + n := by
  rw [← accrue_cyclesHeld n s]
  rcases tick_cases h with ⟨hpw, rfl⟩ | hacc
  · refine ⟨rfl, ?_⟩
    have hfree : paid s { accrue n s with budget := 0 } = 0 := by simp [paid, hpw, accrue]
    rw [hfree, Nat.zero_mul, Nat.zero_add]
    exact Nat.add_le_add_right (Nat.mul_le_mul_right _ (Nat.zero_le _)) _
  · have hpay : t.budget + paid s t = (accrue n s).budget := hacc.payment
    refine ⟨hacc.inputs, Nat.le_of_eq ?_⟩
    rw [State.cyclesHeld, State.cyclesHeld, ← hpay, hacc.acc, cfg_keptByStepParts.tick h]
    simp only [accrue]
    ring

/-- R11, R240: every other operation holds no more cycles after it than before. -/
theorem runOp_cyclesHeld {op : Op} {s t : State} (hop : ∀ n, op ≠ .tick n) (h : runOp op s = .next t) :
    t.inputs = s.inputs ∧ t.cyclesHeld ≤ s.cyclesHeld := by
  cases op with
  | port p din =>
    obtain ⟨hacc, hbudget, hinputs⟩ := exec_clock h
    exact ⟨hinputs, by rw [State.cyclesHeld, State.cyclesHeld, hacc, hbudget, exec_cfg h]⟩
  | tick n => exact absurd rfl (hop n)
  | reset =>
    cases h
    have hempty : (resetOp s).cyclesHeld = 0 := Nat.zero_mul _
    exact ⟨rfl, hempty ▸ Nat.zero_le _⟩
  | offer c b =>
    cases h
    cases c <;> exact ⟨rfl, le_rfl⟩
  | setOffers c bs =>
    cases h
    cases c <;> exact ⟨rfl, le_rfl⟩

/-- R184: only a `TICK` counts services. -/
theorem step_services_cost (s t : State) :
    11 * fillsIn s t + 12 * writesIn s t = if s.ticks = true then paid s t else 0 := by
  cases hticks : s.ticks <;> simp [fillsIn, writesIn, paid, hticks]

/-- R184: one step pays for the services it counts with the cycles its operation brings and those held before it. -/
theorem step_cyclesHeld {s t : State} (h : step s = .next t) :
    t.inputs = s.inputs.tail
      ∧ (11 * fillsIn s t + 12 * writesIn s t) * s.cfg.clkPerBit + t.cyclesHeld
        ≤ s.cyclesHeld + masterCycles (s.inputs.take 1) := by
  rw [step_services_cost]
  rcases hsec : s.cfg.security with _ | _
  · rcases hin : s.inputs with _ | ⟨op, rest⟩
    · obtain rfl := Host.Outcome.next.inj ((step_of_inputs_nil hsec hin).symm.trans h)
      simp [State.ticks, hin]
    · rw [step_of_inputs_cons hsec hin] at h
      by_cases hop : ∃ n, op = .tick n
      · obtain ⟨n, rfl⟩ := hop
        have hticks : s.ticks = true := by simp [State.ticks, hin]
        rw [if_pos hticks]
        exact tick_cyclesHeld h
      · have hticks : s.ticks = false := by
          cases op with
          | tick n => exact absurd ⟨n, rfl⟩ hop
          | _ => simp [State.ticks, hin]
        obtain ⟨hinputs, hheld⟩ := runOp_cyclesHeld (fun n hn => hop ⟨n, hn⟩) h
        refine ⟨hinputs, ?_⟩
        rw [hticks, if_neg nofun, Nat.zero_mul, Nat.zero_add]
        exact Nat.le_add_right_of_le hheld
  · simp [step, stepOp, hsec] at h

/-! ### The account across a run -/

/-- R184: the time of a list of operations is that of its first and that of the others. -/
theorem masterCycles_take_succ (k : Nat) (ops : List Op) :
    masterCycles (ops.take (k + 1)) = masterCycles (ops.take 1) + masterCycles (ops.tail.take k) := by
  rcases ops with _ | ⟨op, rest⟩
  · simp [masterCycles]
  · cases op <;> simp [masterCycles]

theorem services_of_next {s t : State} (k : Nat) (h : step s = .next t) :
    services (k + 1) s = (fillsIn s t + (services k t).1, writesIn s t + (services k t).2) := by
  simp [services, h]

/-- A run that cannot make its first step counts nothing. -/
theorem services_of_stopped {s : State} (k : Nat) (h : ∀ t, step s ≠ .next t) : services k s = (0, 0) := by
  cases k with
  | zero => rfl
  | succ k =>
    rcases hstep : step s with t | r | r
    · exact absurd hstep (h t)
    · simp [services, hstep]
    · simp [services, hstep]

/-- R184: a run pays for its services with the cycles of its `TICK`s and those held before it. -/
theorem services_cyclesHeld (k : Nat) (s : State) :
    (11 * (services k s).1 + 12 * (services k s).2) * s.cfg.clkPerBit ≤ s.cyclesHeld + masterCycles (s.inputs.take k) := by
  induction k generalizing s with
  | zero => simp [services]
  | succ k ih =>
    by_cases hstep : ∃ t, step s = .next t
    · obtain ⟨t, ht⟩ := hstep
      obtain ⟨hinputs, hfirst⟩ := step_cyclesHeld ht
      have hrest := ih t
      rw [parametersNeverChange s t ht, hinputs] at hrest
      rw [services_of_next k ht, masterCycles_take_succ]
      linarith
    · rw [services_of_stopped (k + 1) fun t ht => hstep ⟨t, ht⟩]
      exact (Nat.zero_mul _).trans_le (Nat.zero_le _)

/-- R184: more operations carried out never count fewer services. -/
theorem services_mono (k : Nat) (s : State) :
    (services k s).1 ≤ (services (k + 1) s).1 ∧ (services k s).2 ≤ (services (k + 1) s).2 := by
  induction k generalizing s with
  | zero => exact ⟨Nat.zero_le _, Nat.zero_le _⟩
  | succ k ih =>
    by_cases hstep : ∃ t, step s = .next t
    · obtain ⟨t, ht⟩ := hstep
      rw [services_of_next k ht, services_of_next (k + 1) ht]
      exact ⟨Nat.add_le_add_left (ih t).1 _, Nat.add_le_add_left (ih t).2 _⟩
    · rw [services_of_stopped (k + 1) fun t ht => hstep ⟨t, ht⟩]
      exact ⟨Nat.zero_le _, Nat.zero_le _⟩

/-- Settles O51: with nothing held at the start, the cycles of the `TICK`s alone pay for the services. -/
theorem clockConservation : Obligations.ClockConservation := by
  intro s k hclk hacc hbudget
  have hempty : s.cyclesHeld = 0 := by simp [State.cyclesHeld, hacc, hbudget]
  have hrun := services_cyclesHeld k s
  rw [hempty, Nat.zero_add, ← Nat.le_div_iff_mul_le hclk] at hrun
  exact ⟨hrun, by omega, by omega, services_mono k s⟩

end Sys2Proof.Machine
end

section
/-! The four paths of a fill (R190): what each of the first three delivers, and that a fill without a byte for the host has come
to the fourth. -/

namespace Sys2Proof.Machine

/-! ### Paths 1 to 3 -/

/-- R191: a pending read of the output port gets it as it stood before the completion drives the lines. -/
theorem fill_of_rdOutport {s : State} (hout : s.rdOutport = true) :
    fill s = (.produced, complete s.outport .c0 { s with rdOutport := false }) := by
  rw [fill, if_pos hout]

/-- R192: else a pending RAM read gets its byte. -/
theorem fill_of_ramRdIdx {s : State} {i : Fin 32} (hout : s.rdOutport = false) (hidx : s.ramRdIdx = some i) :
    fill s = (.produced, complete (s.ramByte i.val) .c0 { s with ramRdIdx := none }) := by
  simp [fill, hout, hidx]

/-- R195: else the oldest queued byte is delivered. -/
theorem fill_of_queue {s : State} {b : Byte} {rest : List Byte} (hout : s.rdOutport = false) (hidx : s.ramRdIdx = none)
    (hq : s.q = b :: rest) : fill s = (.produced, complete b .c0 { s with q := rest }) := by
  simp [fill, hout, hidx, qPop_of_cons hq]

/-- Settles O39: each path completes its source's byte over the state without the source, and channel 0 owns the byte. -/
theorem fillTakesTheFirstInternalSource : Obligations.FillTakesTheFirstInternalSource :=
  fun _ => ⟨fun hout => ⟨_, fill_of_rdOutport hout, complete_frame ..⟩,
    fun _ hout hidx => ⟨_, fill_of_ramRdIdx hout hidx, complete_frame ..⟩,
    fun _ _ hout hidx hq => ⟨_, fill_of_queue hout hidx hq, complete_frame ..⟩⟩

/-! ### A fill without a byte for the host -/

/-- R190: the first three paths produce, so a fill that does not has polled the channels. -/
theorem fill_eq_fillFromChannels {s t : State} {r : FillResult} (h : fill s = (r, t)) (hr : r ≠ .produced) :
    fill s = fillFromChannels s := by
  have hnot (u : State) : fill s ≠ (.produced, u) := fun hu => hr (Prod.mk.inj (h.symm.trans hu)).1
  rcases hout : s.rdOutport with _ | _
  · rcases hidx : s.ramRdIdx with _ | i
    · rcases hq : s.q with _ | ⟨b, rest⟩
      · exact fill_channels hout hidx hq
      · exact absurd (fill_of_queue hout hidx hq) (hnot _)
    · exact absurd (fill_of_ramRdIdx hout hidx) (hnot _)
  · exact absurd (fill_of_rdOutport hout) (hnot _)

/-- R193: a fill of the channels swallows what polling answers as an escape. -/
theorem fillFromChannels_swallowed {s t : State} (h : fillFromChannels s = (.swallowed, t)) : pollChannels s = .escape t := by
  rcases hpoll : pollChannels s with _ | u | ⟨c, v, u⟩ <;> simp only [fillFromChannels, hpoll] at h <;> cases h
  rfl

/-- R193, R194: polling answers an escape only for a byte 0xF0 taken from channel 0. -/
theorem pollChannels_escape {s t : State} (h : pollChannels s = .escape t) :
    ∃ u, takeByte s .c0 = some (xlatEscByte, u) ∧ t = { u with xlatEsc := true } := by
  have hfound : pollChannels s ≠ .empty := by rw [h]; nofun
  obtain ⟨c, _, raw, u, htake, hrec⟩ := pollIn_found hfound
  obtain ⟨rfl, _, rfl, rfl⟩ := receive_escape (hrec.symm.trans h)
  exact ⟨u, htake, rfl⟩

/-- R194, R198: a swallowed fill took a byte 0xF0 from channel 0 and armed the escape. -/
theorem fill_swallowed {s t : State} (h : fill s = (.swallowed, t)) :
    ∃ u, takeByte s .c0 = some (xlatEscByte, u) ∧ t = { u with xlatEsc := true } :=
  pollChannels_escape (fillFromChannels_swallowed ((fill_eq_fillFromChannels h nofun).symm.trans h))

/-- Settles O44: the byte swallowed came from channel 0's injection latch or from its device, and only that source and the
escape changed. -/
theorem unproductiveFillsChangeNoRegister : Obligations.UnproductiveFillsChangeNoRegister := by
  refine fun s t => ⟨fill_nothing, fun h => ?_⟩
  obtain ⟨u, htake, rfl⟩ := fill_swallowed h
  rcases takeByte_some htake with ⟨hinj, rfl⟩ | ⟨hinj, _, rest, hoffers, rfl⟩
  · exact .inl ⟨hinj, rfl⟩
  · exact .inr ⟨hinj, rest, hoffers, rfl⟩

/-! ### A byte of channel 0 for the host -/

/-- R193, R194, R196: with the channels to poll and channel 0's byte the one polled, the fill completes it, translated when
translation is on; beyond taking it, at most the escape changed. -/
theorem fill_of_zero_polled {s u : State} {raw : Byte} (hfill : fill s = fillFromChannels s)
    (hpoll : pollChannels s = receive .c0 raw u) (hraw : u.xlate = true → raw ≠ xlatEscByte) :
    ∃ v esc, fill s = (.produced, complete v .c0 { u with xlatEsc := esc }) ∧ (u.xlate = false → v = raw)
      ∧ (u.xlate = true → v = translated u.cfg u.xlatEsc raw) := by
  rcases hx : u.xlate with _ | _
  · exact ⟨raw, u.xlatEsc, fill_of_untranslated hfill hpoll (by simp [hx]), fun _ => rfl, nofun⟩
  · rw [receive_zero_of_xlate raw hx] at hpoll
    exact ⟨translated u.cfg u.xlatEsc raw, false, fill_of_polled_byte (hraw hx) hfill hpoll, nofun, fun _ => rfl⟩

/-- Settles O43: channel 0 is polled first, so its byte completes, and the completion drives channel 0's line alone. -/
theorem channelZeroHasPriority : Obligations.ChannelZeroHasPriority := by
  intro s b hout hram hq horder hzero _ hint hbyte hraw
  have hpoll := pollChannels_zero (takeByte_zero hzero hbyte) (.inr horder)
  obtain ⟨v, esc, hfill, hplain, hxlat⟩ := fill_of_zero_polled (fill_channels hout hram hq) hpoll hraw
  refine ⟨_, hfill, complete_aux .., (complete_irq1 ..).trans hint, complete_irq12 .., fun hoff => ?_, fun hon => ?_, ?consumed⟩
  · exact (complete_outbuf ..).trans (hplain hoff)
  · exact (complete_outbuf ..).trans (hxlat hon)
  case consumed =>
    rw [complete_frame]
    exact ⟨rfl, rfl, rfl, rfl⟩

end Sys2Proof.Machine
end

section
/-! The four port operations (R210 to R214): the state each answers in the fields of the state before, by its cases. -/

namespace Sys2Proof.Machine

/-! ### The data read -/

/-- R210: a read of an empty buffer repeats the byte in it. -/
theorem exec_rddata_of_empty {s : State} (hobf : s.obf = false) : exec .rddata s = .next { s with dout := s.outbuf } := by
  rw [exec, execRddata, hobf, if_neg nofun]

/-- R210: a read of a full buffer empties it and lowers line 1, then line 12. -/
theorem exec_rddata_of_full {s : State} (hobf : s.obf = true) :
    exec .rddata s = .next { s with
      dout := s.outbuf, obf := false, aux := false, hideObf := false
      outport := setBit (setBit s.outport 4 false) 5 false
      trace := s.trace ++ [.irqLower .irq1, .irqLower .irq12] } := by
  rw [exec, execRddata, if_pos hobf, List.append_cons]
  rfl

/-- R35, R87: lowering both lines clears their two bits of the output port and no other. -/
theorem lower_both_getLsbD (v : Byte) (i : Nat) :
    (setBit (setBit v 4 false) 5 false).getLsbD i = if i = 4 ∨ i = 5 then false else v.getLsbD i := by
  by_cases h5 : i = 5
  · rw [h5, setBit_getLsbD_same _ _ _ (by decide), if_pos (.inr rfl)]
  rw [setBit_getLsbD_other _ _ _ _ h5]
  by_cases h4 : i = 4
  · rw [h4, setBit_getLsbD_same _ _ _ (by decide), if_pos (.inl rfl)]
  · rw [setBit_getLsbD_other _ _ _ _ h4, if_neg (not_or.2 ⟨h4, h5⟩)]

/-- Settles O10: the read tells a full buffer from an empty one, and lowering the lines touches their two bits alone. -/
theorem rddataReturnsTheOutputBuffer : Obligations.RddataReturnsTheOutputBuffer :=
  ⟨fun _ => rfl, fun s => ⟨exec_rddata_of_empty,
    fun hobf => ⟨_, exec_rddata_of_full hobf, rfl, lower_both_getLsbD s.outport, fun _ => rfl⟩⟩⟩

/-! ### The writes -/

/-- R211: a data write while one is latched is dropped. -/
theorem exec_wrdata_of_latched (v : Byte) {s : State} (hpw : s.pw ≠ none) : exec (.wrdata v) s = .next s := by
  obtain ⟨k, hk⟩ := Option.ne_none_iff_exists'.1 hpw
  rw [exec, execWrdata, hk]

/-- R213: a command write while one is latched is dropped. -/
theorem exec_wrcmd_of_latched (v : Byte) {s : State} (hpw : s.pw ≠ none) : exec (.wrcmd v) s = .next s := by
  obtain ⟨k, hk⟩ := Option.ne_none_iff_exists'.1 hpw
  rw [exec, execWrcmd, hk]

/-- R213: with no write latched, a command write is latched. -/
theorem exec_wrcmd_of_none (v : Byte) {s : State} (hpw : s.pw = none) : exec (.wrcmd v) s = .next (latchCommand v s) := by
  rw [exec, execWrcmd, hpw]

/-- Settles O11: the redirections are tried in the order of R211, and each clears at most its own arm. -/
theorem wrdataIsTakenByTheFirstRedirection : Obligations.WrdataIsTakenByTheFirstRedirection := by
  refine ⟨fun _ => rfl, fun s v => ⟨exec_wrdata_of_latched v, fun hpw => ?_⟩⟩
  rw [exec_wrdata_of_none v hpw, redirect]
  split_ifs with hout hsim0 hsim1 haux hmode
  case neg => rcases hidx : s.ramWrIdx with _ | i <;> simp only [latchData, hidx]
  all_goals rfl

/-- Settles O13: the latch is free, or the write is dropped. -/
theorem wrcmdLatchesTheCommand : Obligations.WrcmdLatchesTheCommand :=
  ⟨fun _ => rfl, fun _ v => ⟨exec_wrcmd_of_latched v, exec_wrcmd_of_none v⟩⟩

/-! ### What each operation can change -/

/-- R214: what a `TICK` leaves: the registers that only the host's reads and writes and a `RESET` change, the environment's
operations and the parameters. -/
def State.hostSide (s : State) : Byte × Byte × Bool × Bool × Byte × List Op × Config :=
  (s.inbuf, s.cmd, s.cmdflag, s.hideObf, s.dout, s.inputs, s.cfg)

/-- R193, R196: output servicing leaves them. -/
theorem readAttempt_hostSide (f : PassFlags) (s : State) : (readAttempt f s).2.1.hostSide = s.hostSide := by
  rcases readAttempt_cases f s with ⟨v, owner, u, _, _, _, hu, _, hr⟩ | ⟨u, _, hu, _, hr⟩ | hr <;> rw [hr]
  · rw [complete_frame, hu]
    rfl
  · rw [hu]
    rfl

/-- R175: so does input servicing. -/
theorem serviceWrite_hostSide {s t : State} {k : PendingWrite} (hpw : s.pw = some k) (h : serviceWrite s = .next t) :
    t.hostSide = s.hostSide := by
  rw [serviceWrite_frame hpw h]
  rfl

/-- R171 to R173, R214: a `TICK` leaves them, because both services do. -/
theorem tick_hostSide {n : Nat} {s t : State} (h : tick n s = .next t) : t.hostSide = s.hostSide := by
  refine pass_rel (fun u v => v.hostSide = u.hostSide) (fun _ => rfl) (fun _ _ _ huv hvw => hvw.trans huv) (fun _ => rfl)
    readAttempt_hostSide (fun u v hpw _ hv => ?_) (accrue n s) t h
  obtain ⟨k, hk⟩ := Option.isSome_iff_exists.1 hpw
  exact serviceWrite_hostSide (t := v) hk hv

/-- R210, R214: a data read changes at most these fields, and of the output port the two lines alone. -/
theorem exec_rddata_frame {s t : State} (h : exec .rddata s = .next t) :
    t = { s with
        obf := t.obf, aux := t.aux, hideObf := t.hideObf, outport := t.outport, dout := t.dout, trace := t.trace }
      ∧ ∀ i, i ≠ 4 → i ≠ 5 → t.outport.getLsbD i = s.outport.getLsbD i := by
  rcases execRddata_cases h with ⟨_, rfl⟩ | ⟨_, rfl⟩
  · exact ⟨rfl, fun _ _ _ => rfl⟩
  · exact ⟨rfl, fun i h4 h5 => (lower_both_getLsbD s.outport i).trans (if_neg (not_or.2 ⟨h4, h5⟩))⟩

/-- Settles O50: the two reads and the two writes by their cases, the `TICK` by what both its services leave. -/
theorem operationsChangeOnlyTheirFields : Obligations.OperationsChangeOnlyTheirFields := by
  refine fun s t => ⟨exec_rddata_frame, fun v h => ?wrdata, fun h => ?rdstat, fun v h => ?wrcmd, fun n h => ?tick⟩
  case wrdata =>
    rcases execWrdata_cases h with ⟨_, rfl⟩ | ⟨_, rfl⟩
    · rfl
    · rw [redirect_frame]
      rfl
  case rdstat =>
    cases h
    rfl
  case wrcmd => rcases execWrcmd_cases h with ⟨_, rfl⟩ | ⟨_, rfl⟩ <;> rfl
  case tick => simpa only [State.hostSide, Prod.mk.injEq] using tick_hostSide h

end Sys2Proof.Machine
end

section
/-! The absence of exceptions (R220): every operation of the environment answers a next state. -/

namespace Sys2Proof.Machine

/-- R220: a bus transaction because every instruction answers, a `TICK` because its pass does; the other operations are
assignments. -/
theorem runOp_answers (op : Op) (s : State) : ∃ t, runOp op s = .next t := by
  cases op with
  | port p din => exact exec_answers (decodePort p din) s
  | tick n => exact pass_answers (accrue n s)
  | reset | offer _ _ | setOffers _ _ => exact ⟨_, rfl⟩

/-- Settles O9: there is no operation to take, or the one taken answers. -/
theorem everyStepAnswersANextState : Obligations.EveryStepAnswersANextState := by
  intro s hstd
  rcases hin : s.inputs with _ | ⟨op, rest⟩
  · exact ⟨s, step_of_inputs_nil hstd hin⟩
  · rw [step_of_inputs_cons hstd hin]
    exact runOp_answers op { s with inputs := rest }

end Sys2Proof.Machine
end
